-- ==== Sys2Proof/Word.lean ====
section
/-! DEFINITION. The bit-vector types the manual's fields are made of. Only names for widths stand here;
every operation on them is in Machine/Operands.lean. -/
namespace Sys2Proof

/-- One byte of a frame, of a slot on the egress port, or of a tag. -/
abbrev Byte := BitVec 8
/-- A 16-bit field: ages, limits, counts, word indices. -/
abbrev Half := BitVec 16
/-- A word of the register window, and the 32-bit timestamp. -/
abbrev Word := BitVec 32
/-- A 40-bit byte address on the link. -/
abbrev Addr := BitVec 40
/-- One slot of the trace store (00_scope, Units): 64 bits. -/
abbrev Slot64 := BitVec 64
/-- The 16 data bytes of one beat; the byte at beat offset k is bits 8k+7..8k. -/
abbrev BeatData := BitVec 128

end Sys2Proof
end

