-- ==== Sys2Proof/Syntax.lean ====
section
/-! DEFINITION. The link messages and the commands of the part: one constructor of `Instr` per row of
spec/opcode_table.json, with the row's operands. -/
namespace Sys2Proof

/-- The kind of a transaction (R162). -/
inductive Kind where
  | read
  | write
  deriving DecidableEq, Repr

/-- The class of a transaction (R162). -/
inductive TxnClass where
  | ordinary
  | privileged
  deriving DecidableEq, Repr

/-- The status of a downstream response (R163). -/
inductive DownStatus where
  | okay
  | fault
  deriving DecidableEq, Repr

/-- One data beat of a request: 16 bytes and one byte enable flag per byte, flag k for beat offset k (R36, R162). -/
structure ReqBeat where
  data : BeatData
  enables : BitVec 16
  deriving DecidableEq, Repr

/-- A request message as the upstream port carries it (R162). `lenM1` is the length field, 1..16 beats held
as length − 1; `beats` are the data beats actually carried, whose number is the data beat count (R161). -/
structure Request where
  tag : Byte
  initiator : BitVec 5
  context : Byte
  cls : TxnClass
  kind : Kind
  addr : Addr
  lenM1 : BitVec 4
  beats : List ReqBeat
  deriving DecidableEq, Repr

/-- A downstream response message (R163): the downstream tag, the status, the data beats actually carried. -/
structure Response where
  tag : BitVec 7
  status : DownStatus
  beats : List BeatData
  deriving DecidableEq, Repr

/-- The commands: every row of spec/opcode_table.json, in the table's order. -/
inductive Instr where
  /-- UPSTREAM_REQUEST_TAKE (R166): the interconnect offers this request. -/
  | upstreamRequestTake (r : Request)
  /-- TAKE_REPORT (R55): the arbiter takes the report that is next in line. -/
  | takeReport
  /-- HOLD_POINT_PASS (R80). -/
  | holdPointPass
  /-- DOWNSTREAM_REQUEST_TAKE (R170). -/
  | downstreamRequestTake
  /-- DOWNSTREAM_RESPONSE_TAKE (R172): the memory controller offers this response. -/
  | downstreamResponseTake (r : Response)
  /-- RMG_BEGIN_OFFER (R177). -/
  | rmgBeginOffer
  /-- UPSTREAM_RESPONSE_TAKE (R177). -/
  | upstreamResponseTake
  /-- TAKE_XT_INPUT (R55). -/
  | takeXtInput
  /-- TAKE_AN_INPUT (R53). -/
  | takeAnInput
  /-- DWELL_EXPIRY (R64). -/
  | dwellExpiry
  /-- TAKE_ARM (R49). -/
  | takeArm
  /-- TAKE_DISARM (R50). -/
  | takeDisarm
  /-- XTRIG_IN_EDGE (R52). -/
  | xtrigInEdge
  /-- TICK (R154). -/
  | tick
  /-- EXPIRY_UNDER_REPORT (R15) of the slot named. -/
  | expiryUnderReport (slot : Fin 64)
  /-- EXPIRY_UNDER_ABANDON (R16) of the slot named. -/
  | expiryUnderAbandon (slot : Fin 64)
  /-- HOLD_LIMIT_EXPIRY (R81). -/
  | holdLimitExpiry
  /-- DWELL_LIMIT_REACHED (R63). -/
  | dwellLimitReached
  /-- PULSE_END (R73, R74). -/
  | pulseEnd
  /-- EGRESS_RECORD_BEGIN (R133). -/
  | egressRecordBegin
  /-- EGRESS_SLOT_FREED (R135). -/
  | egressSlotFreed
  /-- LINK_RESET (R179): LRST_N becomes asserted. -/
  | linkReset
  /-- LINK_RESET_END (R180): LRST_N becomes deasserted. -/
  | linkResetEnd
  /-- POWER_ON_RESET (R199): PORST_N becomes asserted. -/
  | powerOnReset
  /-- ABORTED (R185): CS_N rises with the frame's content incomplete. -/
  | aborted
  /-- BAD_COMMAND (R184): CS_N rises after a frame whose byte 0 is this code. -/
  | badCommand (code : Byte)
  /-- READ_REG (R187): the header is complete. -/
  | readReg (index : Half) (count : Byte)
  /-- READ_ENTRY (R191): the header is complete. -/
  | readEntry (slot : Byte)
  /-- TRACE_READ (R130, R192): the header is complete. -/
  | traceRead (count : Half)
  /-- TRACE_READ_END (R131): `bytes` more bytes are shifted and CS_N rises. -/
  | traceReadEnd (bytes : Nat)
  /-- CHANNEL_RECORD_WRITE (R27): a WRITE_REG frame. -/
  | channelRecordWrite (index : Half) (count : Byte) (words : List Word)
  /-- STAGE_RECORD_WRITE (R46): a WRITE_REG frame. -/
  | stageRecordWrite (index : Half) (count : Byte) (words : List Word)
  /-- TIMEOUT_WRITE (R13): a WRITE_REG frame. -/
  | timeoutWrite (index : Half) (count : Byte) (words : List Word)
  /-- HOLD_LIMIT_WRITE (R82): a WRITE_REG frame. -/
  | holdLimitWrite (index : Half) (count : Byte) (words : List Word)
  /-- DIVISOR_WRITE (R157): a WRITE_REG frame. -/
  | divisorWrite (index : Half) (count : Byte) (words : List Word)
  /-- MODE_WRITE (R128): a WRITE_REG frame. -/
  | modeWrite (index : Half) (count : Byte) (words : List Word)
  /-- CAPTURE_CONFIGURATION_WRITE (R93): a WRITE_REG frame. -/
  | captureConfigurationWrite (index : Half) (count : Byte) (words : List Word)
  /-- THRESHOLD_WRITE (R127): a WRITE_REG frame. -/
  | thresholdWrite (index : Half) (count : Byte) (words : List Word)
  /-- ENABLE_WRITE (R149): a WRITE_REG frame. -/
  | enableWrite (index : Half) (count : Byte) (words : List Word)
  /-- MASK_WRITE (R143): a WRITE_REG frame. -/
  | maskWrite (index : Half) (count : Byte) (words : List Word)
  /-- ARM (R48). -/
  | arm
  /-- DISARM (R48). -/
  | disarm
  /-- RELEASE_HOLD (R79). -/
  | releaseHold
  /-- PURGE_ORPHANS (R20). -/
  | purgeOrphans
  /-- START_CAPTURE (R92). -/
  | startCapture
  /-- STOP_CAPTURE (R92). -/
  | stopCapture
  /-- MARK (R102). -/
  | mark (value : Word)
  /-- ACK_ALERT (R150): byte 1 of the frame. -/
  | ackAlert (causes : Byte)
  /-- ACK_ANOMALY (R144). -/
  | ackAnomaly
  /-- CLEAR_MATCH (R43). -/
  | clearMatch
  /-- CLEAR_WATCH (R195). -/
  | clearWatch
  /-- REFCLK_RISING_EDGE (R154). -/
  | refclkRisingEdge
  /-- EGRESS_TRANSFER (R133). -/
  | egressTransfer
  /-- FRAME_BEGIN (R182): CS_N falls. -/
  | frameBegin
  /-- SCLK_RISING_EDGE (R182), with the bit on MOSI. -/
  | sclkRisingEdge (mosi : Bool)
  /-- READ_FRAME_END (R183): CS_N rises after the header of a READ_REG or READ_ENTRY frame. -/
  | readFrameEnd
  /-- POWER_ON_RESET_END (R199): PORST_N becomes deasserted. -/
  | powerOnResetEnd
  deriving DecidableEq, Repr

end Sys2Proof
end

