-- ==== Sys2Proof/Decode.lean ====
section
/-! DEFINITION. The command that a word spells by the table's bits. No row of spec/opcode_table.json gives bits
("fields": [] in every row), so no word spells a command. The bytes of the management frames are decoded where the
port shifts them in (Machine/Frames.lean). -/
namespace Sys2Proof

/-- The rows that give bits: none. -/
def decodeTableWord (_nbits _w : Nat) : Option Instr := none

end Sys2Proof
end

