-- ==== Sys2Proof/Config.lean ====
section
/-! DEFINITION. What the part fixes once and for all (sizes), and the values the manual leaves open. -/
namespace Sys2Proof

/-- The slots of the trace store (R115). -/
def Config.storeSlots : Nat := 4096
/-- The positions of RMG's synthesized queue (R175). -/
def Config.queuePositions : Nat := 8
/-- The largest slot count a TRACE_READ frame may ask for (R130). -/
def Config.traceReadMax : Nat := 512
/-- The largest word count of a READ_REG or WRITE_REG frame (R187, R188). -/
def Config.frameWordsMax : Nat := 64

/-- FREE VALUE (log entry 2). At an expiry under ABANDON of a traced entry TCU is asked for two records,
the ANOMALY record and the TIMEOUT RESPONSE record; "TCU takes them in either order" (11.2, step 4; R103).
`anomalyRecordFirst n` is the order taken at the n-th such choice. It has no body: nothing can be proved
about it, so a claim holds for both orders. -/
opaque Config.anomalyRecordFirst : Nat → Bool

/-- FREE VALUE (log entry 15). When the interconnect takes a queued response while a request is offered, "whether
that position goes to a deferred expiry or to an offered request follows R167 in either order" (R176).
`requestTakesFreedPosition n` is the order taken at the n-th such choice. It has no body: nothing can be proved
about it, so a claim holds for both orders. -/
opaque Config.requestTakesFreedPosition : Nat → Bool

end Sys2Proof
end

