-- ==== Sys2Proof/Machine/State.lean ====
section
/-! DEFINITION. The state of the part: every piece of state the manual gives its thirteen blocks, as plain data,
and its value after power-on reset. What a rule calls a count, a line or a flag "equal to" other state is
computed from it (Machine/Ops.lean, Machine/Outputs.lean) and stored once. -/
namespace Sys2Proof.Machine

/-! ### Outstanding Transaction Table (01) -/

/-- R1: the state field of a slot. -/
inductive SlotState where
  | free
  | live
  | orphaned
  deriving DecidableEq, Repr

/-- R1: the timeout policy. -/
inductive Policy where
  | report
  | abandon
  deriving DecidableEq, Repr

/-- The slot record of 1.1. `gen` is the generation bit, `lenM1` the length − 1 (as READ_ENTRY shows it, R197). -/
structure Entry where
  state : SlotState
  gen : Bool
  tag : Byte
  initiator : BitVec 5
  context : Byte
  cls : TxnClass
  kind : Kind
  addr : Addr
  lenM1 : BitVec 4
  stamp : Word
  age : Half
  expired : Bool
  traced : Bool
  reservation : Nat
  deriving DecidableEq, Repr

/-- A slot after power-on reset (R25): FREE, generation 0, every field 0. -/
def Entry.reset : Entry :=
  { state := .free, gen := false, tag := 0, initiator := 0, context := 0, cls := .ordinary, kind := .read,
    addr := 0, lenM1 := 0, stamp := 0, age := 0, expired := false, traced := false, reservation := 0 }

/-- OTT (R1). -/
structure Ott where
  slots : Vector Entry 64
  timeout : Half
  policy : Policy
  purgeCount : BitVec 7
  deriving DecidableEq, Repr

/-! ### Match Unit (02) -/

/-- R26: the side of a channel. -/
inductive Side where
  | request
  | response
  deriving DecidableEq, Repr

/-- A channel record (2.1) with its match flag and hit count. Fields whose codes are kept as written
(R28, R189) hold the code. -/
structure Channel where
  enable : Bool
  side : Side
  kindFilter : BitVec 2
  windowLow : Addr
  windowHigh : Addr
  outside : Bool
  initValue : BitVec 5
  initMask : BitVec 5
  ctxValue : Byte
  ctxMask : Byte
  classFilter : BitVec 2
  lengthMin : BitVec 5
  lengthMax : BitVec 5
  statusFilter : BitVec 2
  dataFilter : Bool
  dataValue : Word
  dataMask : Word
  laneSelect : BitVec 3
  windowBound : Bool
  matchFlag : Bool
  hitCount : Half
  deriving DecidableEq, Repr

/-- A channel after power-on reset (R44). -/
def Channel.reset : Channel :=
  { enable := false, side := .request, kindFilter := 0, windowLow := 0, windowHigh := 0, outside := false,
    initValue := 0, initMask := 0, ctxValue := 0, ctxMask := 0, classFilter := 0, lengthMin := 0, lengthMax := 0,
    statusFilter := 0, dataFilter := false, dataValue := 0, dataMask := 0, laneSelect := 0, windowBound := false,
    matchFlag := false, hitCount := 0 }

/-- MU (R26): the channels W0 to W7. -/
structure Mu where
  channels : Vector Channel 8
  deriving DecidableEq, Repr

/-! ### Trigger Sequencer (03) -/

/-- An exit record (3.1): source set W0..W7, XT, AN in bits 0..9; action set ALERT, HOLD, RELEASE, FENCE,
CAPTURE_ON, CAPTURE_OFF, PULSE in bits 0..6 (R198). -/
structure Exit where
  sources : BitVec 10
  count : BitVec 12
  target : BitVec 3
  actions : BitVec 7
  deriving DecidableEq, Repr

/-- A stage record (3.1). -/
structure Stage where
  exit0 : Exit
  exit1 : Exit
  dwellLimit : Half
  dwellTarget : BitVec 3
  dwellActions : BitVec 7
  deriving DecidableEq, Repr

/-- The all-zero exit record (R45). -/
def Exit.reset : Exit := { sources := 0, count := 0, target := 0, actions := 0 }

/-- The all-zero stage record (R45). -/
def Stage.reset : Stage :=
  { exit0 := Exit.reset, exit1 := Exit.reset, dwellLimit := 0, dwellTarget := 0, dwellActions := 0 }

/-- R47: the sequencer state. -/
inductive SeqState where
  | idle
  | armed
  | fired
  deriving DecidableEq, Repr

/-- R54: the six inputs of the arbiter, in the order of the ring. -/
inductive Input where
  | rqpReport
  | rspReport
  | xt
  | an
  | dwell
  | command
  deriving DecidableEq, Repr

/-- R48: what the command latch can hold. -/
inductive TsqCommand where
  | arm
  | disarm
  deriving DecidableEq, Repr

/-- TSQ (R45, R47, R51 to R54). A report latch holds the hit set of the report; its source is the latch. -/
structure Tsq where
  stages : Vector Stage 4
  state : SeqState
  stage : Fin 4
  counter0 : BitVec 12
  counter1 : BitVec 12
  dwellAge : Half
  rqpReport : Option Byte
  rspReport : Option Byte
  xt : Bool
  an : Bool
  dwellExpiry : Bool
  command : Option TsqCommand
  pointer : Input
  deriving DecidableEq, Repr

/-! ### Request Path (04, 09) -/

/-- R165: the phase of the request in process. The phase EMPTY is "no request in process"; OFFERED holds the
slot that OTT selected for the offer (R4). -/
inductive RqpPhase where
  | checks
  | verdictWait
  | holdPoint
  | roomWait
  | offered (slot : Fin 64)
  deriving DecidableEq, Repr

/-- The request in process (R165) with its hit set (R29) and whether its capture decision has been made
(a request back at the hold point keeps it, R78). -/
structure RqpTxn where
  req : Request
  phase : RqpPhase
  hits : Byte
  decided : Bool
  deriving DecidableEq, Repr

/-- RQP (R75, R165). Its reservation flag is set exactly when a request is in process (R165). -/
structure Rqp where
  held : Bool
  holdAge : Half
  holdLimit : Half
  inProcess : Option RqpTxn
  deriving DecidableEq, Repr

/-! ### Responses (09) -/

/-- The status of an upstream response (R163). -/
inductive UpStatus where
  | okay
  | fault
  | fenced
  | protocol
  | timeout
  deriving DecidableEq, Repr

/-- An upstream response message (R163). -/
structure UpResponse where
  tag : Byte
  initiator : BitVec 5
  status : UpStatus
  data : List BeatData
  deriving DecidableEq, Repr

/-- R172: the phase of the response in process; OFFERED holds the response offered to RMG (R174). -/
inductive RspPhase where
  | checks
  | verdictWait
  | offered (answer : UpResponse)
  deriving DecidableEq, Repr

/-- The response in process (R172): the slot of its bound entry (R8), its status and data after the form
check (R173). -/
structure RspTxn where
  slot : Fin 64
  phase : RspPhase
  status : DownStatus
  data : List BeatData
  deriving DecidableEq, Repr

/-- RSP (R172). -/
structure Rsp where
  inProcess : Option RspTxn
  deriving DecidableEq, Repr

/-- R175: the grant pointer. -/
inductive Source where
  | rsp
  | queue
  deriving DecidableEq, Repr

/-- RMG (R175). The offer in progress is `none` for NONE; `reserved` equals RQP's reservation flag. -/
structure Rmg where
  queue : List UpResponse
  pointer : Source
  offer : Option Source
  deriving DecidableEq, Repr

/-! ### Trace capture, store and egress (05, 06) -/

/-- The capture in hand (R91, R94, R95): the data inclusion of the REQUEST record, the response reservation,
the claim size (0 outside STREAM_STALL) and whether the claim has been granted. -/
structure Capture where
  withData : Bool
  responseReservation : Nat
  claimSize : Nat
  granted : Bool
  deriving DecidableEq, Repr

/-- TCU (R91). -/
structure Tcu where
  capturing : Bool
  byChannels : Bool
  captureSet : Byte
  firstBeat : Bool
  refValid : Bool
  refAddr : Addr
  refContext : Byte
  lastSyncHigh : Half
  syncNeeded : Bool
  lossCount : Half
  capture : Option Capture
  deriving DecidableEq, Repr

/-- A trace record: its slots, header first (R111). -/
abbrev Record := List Slot64

/-- The record in transmission (R115, R133) and the position of its next byte: the slot within the record
and the byte within the slot. -/
structure Transmission where
  record : Record
  slotPos : Nat
  bytePos : BitVec 3
  deriving DecidableEq, Repr

/-- TST and TEG (R115, R133). Mode and threshold are the fields as written (R127); the snapshot is the number
of the oldest records that an open TRACE_READ frame pins (R130). -/
structure Tst where
  mode : BitVec 3
  records : List Record
  tx : Option Transmission
  overwrite : Half
  stopped : Bool
  threshold : BitVec 13
  snapshot : Option Nat
  deriving DecidableEq, Repr

/-! ### Anomalies and alerts (07) -/

/-- The six anomaly classes (7.1). -/
inductive AnomalyClass where
  | malformedRequest
  | duplicateTag
  | unsolicitedResponse
  | lateResponse
  | malformedResponse
  | timeout
  deriving DecidableEq, Repr

/-- An anomaly report (R138): slot none is 127, address none is all ones. -/
structure Anomaly where
  cls : AnomalyClass
  slot : BitVec 7
  initiator : BitVec 5
  tag : Byte
  addr : Addr
  deriving DecidableEq, Repr

/-- The first-anomaly record (R139). -/
structure FirstAnomaly where
  anomaly : Anomaly
  stamp : Word
  deriving DecidableEq, Repr

/-- ANS (R139). `flags`, `anMask` and `alertMask` hold class code n in bit n; `first` is `none` while
first-anomaly valid is clear. -/
structure Ans where
  flags : BitVec 6
  counts : Vector Byte 6
  first : Option FirstAnomaly
  anMask : BitVec 6
  alertMask : BitVec 6
  deriving DecidableEq, Repr

/-- ALC (R146): SEQ, ANOMALY, THRESHOLD, LOSS, HOLD_EXPIRED, FIRED in bits 0..5 (R198). -/
structure Alc where
  pending : BitVec 6
  enable : BitVec 6
  deriving DecidableEq, Repr

/-! ### Timebase and XTRIG_OUT (08, 04) -/

/-- TBS (R153). The divisor field 0 stands for 65536. -/
structure Tbs where
  divisor : Half
  prescale : Half
  timestamp : Word
  deriving DecidableEq, Repr

/-- The XTRIG_OUT driver (R73): LOW, or DRIVING with the ticks taken since the pulse began. -/
inductive Pulse where
  | low
  | driving (ticks : Fin 2)
  deriving DecidableEq, Repr

/-! ### Management port and pins (10) -/

/-- R182: the frame state. -/
inductive FrameState where
  | idle
  | command
  | header
  | payload
  | dataOut
  | drain
  deriving DecidableEq, Repr

/-- The status codes (R196). -/
inductive Status where
  | ok
  | busy
  | locked
  | badIndex
  | badCommand
  | wrongMode
  | empty
  | aborted
  deriving DecidableEq, Repr

/-- MGP (R182). `received` is the command in progress: its code followed by the header and payload bytes
received so far; `shift` holds the bits of the current byte shifted so far, the last one lowest. -/
structure Mgp where
  frameState : FrameState
  bytePos : Half
  bitPos : BitVec 3
  shift : Byte
  received : List Byte
  frameStatus : Option Status
  snapshot : Option (List Byte)
  lastStatus : Status
  deriving DecidableEq, Repr

/-- MGP between frames (R182, R199). -/
def Mgp.idle (last : Status) : Mgp :=
  { frameState := .idle, bytePos := 0, bitPos := 0, shift := 0, received := [], frameStatus := none,
    snapshot := none, lastStatus := last }

/-- The pins whose level the part must know: PORST_N, LRST_N (R180) and CS_N (R199), `true` for asserted. -/
structure Pins where
  porst : Bool
  lrst : Bool
  cs : Bool
  deriving DecidableEq, Repr

/-! ### The whole part -/

/-- The state of the part. `pending` is the queue of commands that wait to be taken and `choices` counts the orders
drawn from the free values of Config (log entries 2 and 15): these two fields are the model's, not the manual's. -/
structure State where
  ott : Ott
  mu : Mu
  tsq : Tsq
  rqp : Rqp
  rsp : Rsp
  rmg : Rmg
  tcu : Tcu
  tst : Tst
  ans : Ans
  alc : Alc
  tbs : Tbs
  pulse : Pulse
  mgp : Mgp
  pins : Pins
  choices : Nat
  pending : List Instr
  deriving DecidableEq, Repr

/-- The reasons a command can stop the part with a fault: none. The manual gives the part no stopped state:
link faults are anomalies (07), refused frames are status codes (10), and a message that cannot be taken is
refused for now (R161). Safe: nothing raises it. -/
inductive Fault where
  deriving DecidableEq, Repr

/-- The reasons the model refuses a command. -/
inductive Refusal where
  /-- Raised by an arm of `exec` whose command has no meaning yet (none is left). Safe: the model stops. -/
  | notModelled (mnemonic : String)
  deriving DecidableEq, Repr

/-- What a meaning answers. -/
abbrev Result := Host.Outcome State Fault Refusal

/-- The part after power-on reset, PORST_N deasserted (R25, R44, R71, R85, R113, R137, R145, R152, R160, R181,
R198, R199): every field at the value its chapter gives, CS_N and LRST_N deasserted (log entry 7), no command
waiting. -/
def State.reset : State :=
  { ott := { slots := Vector.replicate 64 Entry.reset, timeout := 0, policy := .report, purgeCount := 0 }
    mu := { channels := Vector.replicate 8 Channel.reset }
    tsq :=
      { stages := Vector.replicate 4 Stage.reset, state := .idle, stage := 0, counter0 := 0, counter1 := 0,
        dwellAge := 0, rqpReport := none, rspReport := none, xt := false, an := false, dwellExpiry := false,
        command := none, pointer := .rqpReport }
    rqp := { held := false, holdAge := 0, holdLimit := 0, inProcess := none }
    rsp := { inProcess := none }
    rmg := { queue := [], pointer := .rsp, offer := none }
    tcu :=
      { capturing := false, byChannels := false, captureSet := 0, firstBeat := false, refValid := false,
        refAddr := 0, refContext := 0, lastSyncHigh := 0, syncNeeded := true, lossCount := 0, capture := none }
    tst :=
      { mode := 0, records := [], tx := none, overwrite := 0, stopped := false, threshold := 4096,
        snapshot := none }
    ans := { flags := 0, counts := Vector.replicate 6 0, first := none, anMask := 0, alertMask := 0 }
    alc := { pending := 0, enable := 0 }
    tbs := { divisor := 1000, prescale := 0, timestamp := 0 }
    pulse := .low
    mgp := Mgp.idle .ok
    pins := { porst := false, lrst := false, cs := false }
    choices := 0
    pending := [] }

/-! ### One update per field -/

def State.setOtt (x : Ott) (s : State) : State := { s with ott := x }
def State.setMu (x : Mu) (s : State) : State := { s with mu := x }
def State.setTsq (x : Tsq) (s : State) : State := { s with tsq := x }
def State.setRqp (x : Rqp) (s : State) : State := { s with rqp := x }
def State.setRsp (x : Rsp) (s : State) : State := { s with rsp := x }
def State.setRmg (x : Rmg) (s : State) : State := { s with rmg := x }
def State.setTcu (x : Tcu) (s : State) : State := { s with tcu := x }
def State.setTst (x : Tst) (s : State) : State := { s with tst := x }
def State.setAns (x : Ans) (s : State) : State := { s with ans := x }
def State.setAlc (x : Alc) (s : State) : State := { s with alc := x }
def State.setTbs (x : Tbs) (s : State) : State := { s with tbs := x }
def State.setPulse (x : Pulse) (s : State) : State := { s with pulse := x }
def State.setMgp (x : Mgp) (s : State) : State := { s with mgp := x }
def State.setPins (x : Pins) (s : State) : State := { s with pins := x }
def State.setChoices (x : Nat) (s : State) : State := { s with choices := x }
def State.setPending (x : List Instr) (s : State) : State := { s with pending := x }

end Sys2Proof.Machine
end

