-- ==== Sys2Proof/Machine/Operands.lean ====
section
/-! DEFINITION. The operand forms: fields of messages, lanes, sets, trace record layouts (R111, R112), the
management frames (R196) and the coded fields of the register window (R198). Nothing here reads the State. -/
namespace Sys2Proof.Machine

/-! ### Counting -/

/-- A saturating increment: "stop at their stated maximum and stay there until cleared" (00_scope). -/
def satInc {w : Nat} (x : BitVec w) : BitVec w := if x = BitVec.allOnes w then x else x + 1

/-- A saturating addition of a count. -/
def satAdd {w : Nat} (x : BitVec w) (n : Nat) : BitVec w :=
  if x.toNat + n < 2 ^ w then BitVec.ofNat w (x.toNat + n) else BitVec.allOnes w

/-- A number of ticks as a 16-bit field, saturating at 65535. -/
def satHalf (n : Nat) : Half := if n < 65536 then BitVec.ofNat 16 n else BitVec.allOnes 16

/-- A field of a word or slot: `x` with its lowest bit at bit `lo`. -/
def place {w : Nat} (n : Nat) (lo : Nat) (x : BitVec w) : BitVec n := x.setWidth n <<< lo

/-- A Bool as one bit. -/
def flag (b : Bool) : BitVec 1 := BitVec.ofBool b

/-! ### Messages -/

/-- The length of a request or entry in beats, 1..16 (R162). -/
def beatsOf (lenM1 : BitVec 4) : Nat := lenM1.toNat + 1

/-- An address with its low 4 bits cleared (R31), as a number. -/
def base16 (a : Addr) : Nat := a.toNat / 16 * 16

/-- The last byte of the span A to A + 16·length − 1 (R31). -/
def spanEnd (a : Addr) (lenM1 : BitVec 4) : Nat := base16 a + 16 * beatsOf lenM1 - 1

/-- R164: the request is MALFORMED. -/
def malformedRequest (r : Request) : Bool :=
  (decide (1 < beatsOf r.lenM1) && decide (r.addr.toNat % 16 ≠ 0))
  || decide (base16 r.addr / 4096 ≠ spanEnd r.addr r.lenM1 / 4096)
  || (decide (r.kind = .write) && decide (r.beats.length ≠ beatsOf r.lenM1))
  || (decide (r.kind = .read) && decide (r.beats.length ≠ 0))

/-- R173: the data beat count that the entry's kind and length and the response's status call for. -/
def expectedBeats (kind : Kind) (lenM1 : BitVec 4) (status : DownStatus) : Nat :=
  match status, kind with
  | .okay, .read => beatsOf lenM1
  | .okay, .write => 0
  | .fault, _ => 0

/-- R163: the status OKAY or FAULT of memory as an upstream status. -/
def upStatus : DownStatus → UpStatus
  | .okay => .okay
  | .fault => .fault

/-- R2: the slot a downstream tag names, the tag divided by 2. -/
def tagSlot (t : BitVec 7) : Fin 64 := ⟨t.toNat / 2, by omega⟩

/-- R2: the generation a downstream tag carries, the tag modulo 2. -/
def tagGen (t : BitVec 7) : Bool := decide (t.toNat % 2 = 1)

/-- R2: twice the slot number plus the generation bit. -/
def downTag (n : Fin 64) (gen : Bool) : BitVec 7 := BitVec.ofNat 7 (2 * n.val + gen.toNat)

/-- The slot number as an anomaly or a trace record carries it. -/
def slotCode (n : Fin 64) : BitVec 7 := BitVec.ofNat 7 n.val

/-- Slot none (R111, R138). -/
def slotNone : BitVec 7 := 127

/-- Address none, all ones (R138). -/
def addrNone : Addr := BitVec.allOnes 40

/-- Lane k of a beat: bytes 4k to 4k + 3, the lowest offset in bits 7..0 (R36). -/
def lane (d : BeatData) (k : Nat) : Word := d.extractLsb' (32 * k) 32

/-- R37: all four byte enable flags of lane k are set. -/
def laneEnabled (enables : BitVec 16) (k : Nat) : Bool := decide (enables.extractLsb' (4 * k) 4 = BitVec.allOnes 4)

/-! ### Codes -/

def kindCode : Kind → BitVec 1
  | .read => 0
  | .write => 1

def classCode : TxnClass → BitVec 1
  | .ordinary => 0
  | .privileged => 1

def SlotState.code : SlotState → BitVec 2
  | .free => 0
  | .live => 1
  | .orphaned => 2

def Policy.code : Policy → BitVec 1
  | .report => 0
  | .abandon => 1

def Side.code : Side → BitVec 1
  | .request => 0
  | .response => 1

def SeqState.code : SeqState → BitVec 2
  | .idle => 0
  | .armed => 1
  | .fired => 2

/-- R198: the RQP phase; EMPTY is 0. -/
def RqpPhase.code : RqpPhase → BitVec 3
  | .checks => 1
  | .verdictWait => 2
  | .holdPoint => 3
  | .roomWait => 4
  | .offered _ => 5

/-- R198: the RSP phase; EMPTY is 0. -/
def RspPhase.code : RspPhase → BitVec 2
  | .checks => 1
  | .verdictWait => 2
  | .offered _ => 3

def Source.code : Source → BitVec 1
  | .rsp => 0
  | .queue => 1

/-- R198: the offer in progress. -/
def offerCode : Option Source → BitVec 2
  | none => 0
  | some .rsp => 1
  | some .queue => 2

/-- 7.1: the code of an anomaly class. -/
def AnomalyClass.code : AnomalyClass → Fin 6
  | .malformedRequest => 0
  | .duplicateTag => 1
  | .unsolicitedResponse => 2
  | .lateResponse => 3
  | .malformedResponse => 4
  | .timeout => 5

/-- The set that holds one anomaly class (R198). -/
def AnomalyClass.bit (c : AnomalyClass) : BitVec 6 := 1#6 <<< c.code.val

/-- R196: the status codes. -/
def Status.code : Status → Byte
  | .ok => 0x01
  | .busy => 0x02
  | .locked => 0x03
  | .badIndex => 0x04
  | .badCommand => 0x05
  | .wrongMode => 0x06
  | .empty => 0x07
  | .aborted => 0x08

/-- R198: the store mode that a mode code acts as (R127, R189). -/
inductive StoreMode where
  | off
  | ring
  | stop
  | streamStall
  | streamDrop
  deriving DecidableEq, Repr

/-- R127, R189: codes 5 to 7 act as OFF. -/
def storeMode (code : BitVec 3) : StoreMode :=
  if code = 1 then .ring else if code = 2 then .stop else if code = 3 then .streamStall
  else if code = 4 then .streamDrop else .off

/-- R127: the threshold acts as 1 when 0 is written and as 4096 when a value above 4096 is written. -/
def effectiveThreshold (t : BitVec 13) : Nat :=
  if t.toNat = 0 then 1 else if 4096 < t.toNat then 4096 else t.toNat

/-- R153: the divisor field 0 stands for 65536. -/
def effectiveDivisor (d : Half) : Nat := if d.toNat = 0 then 65536 else d.toNat

/-- R45: an occurrence count of 0 acts as 1. -/
def effectiveCount (c : BitVec 12) : Nat := if c.toNat = 0 then 1 else c.toNat

/-- R45: a target names S0 to S3 (some) or STOP (none). -/
def targetStage (t : BitVec 3) : Option (Fin 4) := if h : t.toNat < 4 then some ⟨t.toNat, h⟩ else none

/-! ### Actions (R198) and sources -/

def Action.alert (a : BitVec 7) : Bool := a.getLsbD 0
def Action.hold (a : BitVec 7) : Bool := a.getLsbD 1
def Action.release (a : BitVec 7) : Bool := a.getLsbD 2
def Action.fence (a : BitVec 7) : Bool := a.getLsbD 3
def Action.captureOn (a : BitVec 7) : Bool := a.getLsbD 4
def Action.captureOff (a : BitVec 7) : Bool := a.getLsbD 5
def Action.pulse (a : BitVec 7) : Bool := a.getLsbD 6

/-- The source set of a report: its hit set, W0..W7 in bits 0..7 (3.4). -/
def reportSources (hits : Byte) : BitVec 10 := hits.setWidth 10
/-- The source set of the XT input (3.4): bit 8. -/
def xtSources : BitVec 10 := 0x100
/-- The source set of the AN input (3.4): bit 9. -/
def anSources : BitVec 10 := 0x200

/-- R54: the input that follows in the ring. -/
def Input.next : Input → Input
  | .rqpReport => .rspReport
  | .rspReport => .xt
  | .xt => .an
  | .an => .dwell
  | .dwell => .command
  | .command => .rqpReport

/-- R54: the ring from an input on. -/
def Input.ring (p : Input) : List Input :=
  [p, p.next, p.next.next, p.next.next.next, p.next.next.next.next, p.next.next.next.next.next]

/-! ### Trace records (R111, R112) -/

/-- The two data slots of the first beat: bytes 0..7, then 8..15 (R111). -/
def dataSlots (d : BeatData) : List Slot64 := [d.extractLsb' 0 64, d.extractLsb' 64 64]

/-- R111: the header's kind code in bits 63..60 and the low 16 bits of the timestamp in bits 59..44. -/
def header (kind : BitVec 4) (now : Word) (fields : Slot64) : Slot64 :=
  place 64 60 kind ||| place 64 44 (now.extractLsb' 0 16) ||| fields

/-- R111: the fields of a REQUEST header, bits 43..0. -/
def requestFields (r : Request) (withData : Bool) (slot : BitVec 7) (delta : BitVec 18) : Slot64 :=
  place 64 40 r.lenM1 ||| place 64 35 r.initiator ||| place 64 34 (classCode r.cls) ||| place 64 33 (flag withData)
  ||| place 64 25 r.tag ||| place 64 18 slot ||| place 64 0 delta

/-- R111: the address slot of a REQUEST record. -/
def requestAddressSlot (r : Request) (fenced : Bool) : Slot64 :=
  place 64 24 r.addr ||| place 64 16 r.context ||| place 64 15 (flag fenced)

/-- R112: the data slots of a REQUEST record, present exactly when the data flag is set. -/
def requestData (r : Request) (withData : Bool) : List Slot64 :=
  if withData then dataSlots ((r.beats.map ReqBeat.data).headD 0) else []

/-- R111: a REQUEST record in DELTA form (kind code 0x1 or 0x3). -/
def requestDelta (r : Request) (withData : Bool) (slot : BitVec 7) (delta : BitVec 18) (now : Word) : Record :=
  header (if r.kind = .read then 0x1 else 0x3) now (requestFields r withData slot delta) :: requestData r withData

/-- R111: a REQUEST record in FULL form (kind code 0x2 or 0x4). -/
def requestFull (r : Request) (withData fenced : Bool) (slot : BitVec 7) (now : Word) : Record :=
  header (if r.kind = .read then 0x2 else 0x4) now (requestFields r withData slot 0)
    :: requestAddressSlot r fenced :: requestData r withData

/-- R105: the delta, the address divided by 16 minus the reference address divided by 16. -/
def addressDelta (a ref : Addr) : Int := (a.toNat / 16 : Int) - (ref.toNat / 16 : Int)

/-- R105: the delta fits a signed 18-bit value. -/
def deltaFits (d : Int) : Bool := decide (-131072 ≤ d ∧ d ≤ 131071)

/-- The status of a RESPONSE record (R111). -/
inductive RecordStatus where
  | okay
  | fault
  | fenced
  | timeout
  deriving DecidableEq, Repr

def RecordStatus.code : RecordStatus → BitVec 3
  | .okay => 0
  | .fault => 1
  | .fenced => 2
  | .timeout => 3

/-- R111: a RESPONSE record. -/
def responseRecord (status : RecordStatus) (initiator : BitVec 5) (tag : Byte) (slot : BitVec 7) (latency : Half)
    (data : Option BeatData) (now : Word) : Record :=
  header 0x5 now
    (place 64 41 status.code ||| place 64 40 (flag data.isSome) ||| place 64 35 initiator ||| place 64 27 tag
      ||| place 64 20 slot ||| place 64 4 latency)
    :: match data with
       | some d => dataSlots d
       | none => []

/-- The cause of a STAGE record (R66). -/
inductive StageCause where
  | exit0
  | exit1
  | dwell
  | arm
  | disarm
  deriving DecidableEq, Repr

def StageCause.code : StageCause → BitVec 3
  | .exit0 => 0
  | .exit1 => 1
  | .dwell => 2
  | .arm => 3
  | .disarm => 4

/-- R111, STAGE from: a stage. -/
def stageFrom (n : Fin 4) : BitVec 3 := BitVec.ofNat 3 n.val
/-- R111, STAGE from: FIRED. -/
def stageFromFired : BitVec 3 := 4
/-- R111, STAGE from: none. -/
def stageFromNone : BitVec 3 := 7
/-- R111, STAGE to: IDLE. -/
def stageToIdle : BitVec 3 := 5
/-- R111, STAGE to: S0..S3, or 4 for STOP. -/
def stageTo (target : BitVec 3) : BitVec 3 := if target.toNat < 4 then target else 4

/-- R111: the action set of a STAGE record, ALERT in its highest bit (34) and PULSE in its lowest (28). -/
def recordActions (a : BitVec 7) : BitVec 7 :=
  place 7 6 (flag (Action.alert a)) ||| place 7 5 (flag (Action.hold a)) ||| place 7 4 (flag (Action.release a))
  ||| place 7 3 (flag (Action.fence a)) ||| place 7 2 (flag (Action.captureOn a))
  ||| place 7 1 (flag (Action.captureOff a)) ||| place 7 0 (flag (Action.pulse a))

/-- R111: a STAGE record. -/
def stageRecord (source dest : BitVec 3) (cause : StageCause) (actions : BitVec 7) (now : Word) : Record :=
  [header 0x6 now
    (place 64 41 source ||| place 64 38 dest ||| place 64 35 cause.code ||| place 64 28 (recordActions actions))]

/-- R111: an ANOMALY record. -/
def anomalyRecord (a : Anomaly) (now : Word) : Record :=
  [header 0x7 now
    (place 64 41 (BitVec.ofNat 3 a.cls.code.val) ||| place 64 34 a.slot ||| place 64 29 a.initiator
      ||| place 64 21 a.tag),
   place 64 24 a.addr]

/-- R111: a LOSS record. -/
def lossRecord (count : Half) (now : Word) : Record := [header 0x8 now (place 64 28 count)]
/-- R111: a MARK record. -/
def markRecord (value : Word) (now : Word) : Record := [header 0x9 now (place 64 12 value)]
/-- R111: a SYNC record. -/
def syncRecord (now : Word) : Record := [header 0xA now (place 64 12 now)]
/-- R111: a LINKRESET record. -/
def linkResetRecord (live orphaned : Nat) (now : Word) : Record :=
  [header 0xB now (place 64 37 (BitVec.ofNat 7 live) ||| place 64 30 (BitVec.ofNat 7 orphaned))]

/-- R134: the eight bytes of a slot, bits 63..56 first. -/
def slotBytes (x : Slot64) : List Byte :=
  [x.extractLsb' 56 8, x.extractLsb' 48 8, x.extractLsb' 40 8, x.extractLsb' 32 8, x.extractLsb' 24 8,
   x.extractLsb' 16 8, x.extractLsb' 8 8, x.extractLsb' 0 8]

/-- The slots of a list of records (R115). -/
def slotsOf (rs : List Record) : Nat := (rs.map List.length).sum

/-! ### Frames (R196) -/

/-- The commands of the command table. -/
inductive Command where
  | readReg
  | writeReg
  | readEntry
  | traceRead
  | arm
  | disarm
  | releaseHold
  | purgeOrphans
  | startCapture
  | stopCapture
  | mark
  | ackAlert
  | ackAnomaly
  | clearMatch
  | clearWatch
  deriving DecidableEq, Repr

/-- R196: the command codes. -/
def Command.code : Command → Byte
  | .readReg => 0x21
  | .writeReg => 0x22
  | .readEntry => 0x23
  | .traceRead => 0x24
  | .arm => 0x31
  | .disarm => 0x32
  | .releaseHold => 0x33
  | .purgeOrphans => 0x34
  | .startCapture => 0x35
  | .stopCapture => 0x36
  | .mark => 0x37
  | .ackAlert => 0x38
  | .ackAnomaly => 0x39
  | .clearMatch => 0x3A
  | .clearWatch => 0x3B

/-- The commands, in the order of R196. -/
def Command.all : List Command :=
  [.readReg, .writeReg, .readEntry, .traceRead, .arm, .disarm, .releaseHold, .purgeOrphans, .startCapture,
   .stopCapture, .mark, .ackAlert, .ackAnomaly, .clearMatch, .clearWatch]

/-- R184: the command that byte 0 names, if any. -/
def Command.ofCode (b : Byte) : Option Command := Command.all.find? (fun c => c.code = b)

/-- R184: the header bytes after byte 0. -/
def Command.headerBytes : Command → Nat
  | .readReg => 3
  | .writeReg => 3
  | .readEntry => 1
  | .traceRead => 2
  | _ => 0

/-- R188: the count of a READ_REG or WRITE_REG frame lies in 1..64. -/
def countValid (count : Byte) : Bool := decide (1 ≤ count.toNat ∧ count.toNat ≤ Config.frameWordsMax)

/-- R184, R185: the payload bytes that follow the header; a WRITE_REG whose count lies outside 1..64 calls for none. -/
def Command.payloadBytes (c : Command) (received : List Byte) : Nat :=
  match c with
  | .writeReg => let count := received.getD 3 0; if countValid count then 4 * count.toNat else 0
  | .mark => 4
  | .ackAlert => 1
  | _ => 0

/-- Two bytes of a frame as a 16-bit field, most significant first. -/
def halfOf (hi lo : Byte) : Half := hi ++ lo

/-- A 16-bit field as bytes, most significant first. -/
def halfBytes (h : Half) : List Byte := [h.extractLsb' 8 8, h.extractLsb' 0 8]

/-- A word as bytes, most significant first (R187, R188). -/
def wordBytes (w : Word) : List Byte :=
  [w.extractLsb' 24 8, w.extractLsb' 16 8, w.extractLsb' 8 8, w.extractLsb' 0 8]

/-- The bytes of a READ_REG header (R196). -/
def readRegBytes (index : Half) (count : Byte) : List Byte := Command.readReg.code :: halfBytes index ++ [count]

/-- The bytes of a READ_ENTRY header (R196). -/
def readEntryBytes (slot : Byte) : List Byte := [Command.readEntry.code, slot]

/-- The bytes of a TRACE_READ header (R196). -/
def traceReadBytes (count : Half) : List Byte := Command.traceRead.code :: halfBytes count

/-- The content of a WRITE_REG frame (R196): header, and the payload words that its count calls for, as far
as they are given. -/
def writeRegBytes (index : Half) (count : Byte) (words : List Word) : List Byte :=
  Command.writeReg.code :: halfBytes index ++ [count]
    ++ (if countValid count then (words.take count.toNat).flatMap wordBytes else [])

/-- The content of a MARK frame (R194). -/
def markBytes (value : Word) : List Byte := Command.mark.code :: wordBytes value

/-- The content of an ACK_ALERT frame (R194). -/
def ackAlertBytes (causes : Byte) : List Byte := [Command.ackAlert.code, causes]

/-- R185: the payload of a WRITE_REG frame is complete, or none is called for. -/
def payloadComplete (count : Byte) (words : List Word) : Bool :=
  !countValid count || decide (count.toNat ≤ words.length)

/-! ### Register words (R197): records that the blocks own -/

/-- The low word of a 40-bit address (R197, windows and first-anomaly address). -/
def addrLow (a : Addr) : Word := a.extractLsb' 0 32
/-- The high byte of a 40-bit address, in bits 7..0 of its word. -/
def addrHigh (a : Addr) : Word := (a.extractLsb' 32 8).setWidth 32
def setAddrLow (a : Addr) (w : Word) : Addr := a.extractLsb' 32 8 ++ w
def setAddrHigh (a : Addr) (w : Word) : Addr := w.extractLsb' 0 8 ++ a.extractLsb' 0 32

/-- R197: word `k` of a channel record. -/
def Channel.word (c : Channel) (k : Nat) : Word :=
  match k with
  | 0 => place 32 0 (flag c.enable) ||| place 32 1 c.side.code ||| place 32 2 c.kindFilter
      ||| place 32 4 (flag c.outside) ||| place 32 5 c.classFilter ||| place 32 7 c.statusFilter
  | 1 => addrLow c.windowLow
  | 2 => addrHigh c.windowLow
  | 3 => addrLow c.windowHigh
  | 4 => addrHigh c.windowHigh
  | 5 => place 32 0 c.initValue ||| place 32 8 c.initMask
  | 6 => place 32 0 c.ctxValue ||| place 32 8 c.ctxMask
  | 7 => place 32 0 c.lengthMin ||| place 32 8 c.lengthMax
  | 8 => c.dataValue
  | 9 => c.dataMask
  | 10 => place 32 0 (flag c.dataFilter) ||| place 32 1 c.laneSelect ||| place 32 4 (flag c.windowBound)
  | 11 => place 32 0 c.hitCount ||| place 32 16 (flag c.matchFlag)
  | _ => 0

/-- R197: a channel record with its word `k` written; word 11 is read-only and no other word changes the
match flag and hit count (R27). -/
def Channel.write (c : Channel) (k : Nat) (w : Word) : Channel :=
  match k with
  | 0 => { c with
      enable := w.getLsbD 0, side := if w.getLsbD 1 then .response else .request, kindFilter := w.extractLsb' 2 2,
      outside := w.getLsbD 4, classFilter := w.extractLsb' 5 2, statusFilter := w.extractLsb' 7 2 }
  | 1 => { c with windowLow := setAddrLow c.windowLow w }
  | 2 => { c with windowLow := setAddrHigh c.windowLow w }
  | 3 => { c with windowHigh := setAddrLow c.windowHigh w }
  | 4 => { c with windowHigh := setAddrHigh c.windowHigh w }
  | 5 => { c with initValue := w.extractLsb' 0 5, initMask := w.extractLsb' 8 5 }
  | 6 => { c with ctxValue := w.extractLsb' 0 8, ctxMask := w.extractLsb' 8 8 }
  | 7 => { c with lengthMin := w.extractLsb' 0 5, lengthMax := w.extractLsb' 8 5 }
  | 8 => { c with dataValue := w }
  | 9 => { c with dataMask := w }
  | 10 => { c with
      dataFilter := w.getLsbD 0, laneSelect := w.extractLsb' 1 3, windowBound := w.getLsbD 4 }
  | _ => c

/-- R197: the target and action word of an exit, and of the dwell. -/
def targetWord (target : BitVec 3) (actions : BitVec 7) : Word := place 32 0 target ||| place 32 8 actions

/-- R197: word `k` of a stage record. -/
def Stage.word (st : Stage) (k : Nat) : Word :=
  match k with
  | 0 => place 32 0 st.exit0.sources
  | 1 => place 32 0 st.exit0.count
  | 2 => targetWord st.exit0.target st.exit0.actions
  | 3 => place 32 0 st.exit1.sources
  | 4 => place 32 0 st.exit1.count
  | 5 => targetWord st.exit1.target st.exit1.actions
  | 6 => place 32 0 st.dwellLimit
  | 7 => targetWord st.dwellTarget st.dwellActions
  | _ => 0

/-- R197: a stage record with its word `k` written. -/
def Stage.write (st : Stage) (k : Nat) (w : Word) : Stage :=
  match k with
  | 0 => { st with exit0 := { st.exit0 with sources := w.extractLsb' 0 10 } }
  | 1 => { st with exit0 := { st.exit0 with count := w.extractLsb' 0 12 } }
  | 2 => { st with exit0 := { st.exit0 with target := w.extractLsb' 0 3, actions := w.extractLsb' 8 7 } }
  | 3 => { st with exit1 := { st.exit1 with sources := w.extractLsb' 0 10 } }
  | 4 => { st with exit1 := { st.exit1 with count := w.extractLsb' 0 12 } }
  | 5 => { st with exit1 := { st.exit1 with target := w.extractLsb' 0 3, actions := w.extractLsb' 8 7 } }
  | 6 => { st with dwellLimit := w.extractLsb' 0 16 }
  | 7 => { st with dwellTarget := w.extractLsb' 0 3, dwellActions := w.extractLsb' 8 7 }
  | _ => st

/-- R197: the five words of READ_ENTRY. -/
def Entry.words (e : Entry) : List Word :=
  [ place 32 0 e.state.code ||| place 32 2 (flag e.gen) ||| place 32 3 (flag e.expired)
      ||| place 32 4 (flag e.traced) ||| place 32 5 (BitVec.ofNat 3 e.reservation) ||| place 32 8 (kindCode e.kind)
      ||| place 32 9 (classCode e.cls) ||| place 32 12 e.lenM1 ||| place 32 16 e.initiator ||| place 32 24 e.tag,
    place 32 0 e.context ||| place 32 16 (e.addr.extractLsb' 32 8),
    addrLow e.addr,
    e.stamp,
    place 32 0 e.age ]

end Sys2Proof.Machine
end

