-- ==== Sys2Proof/Machine/Flags.lean ====
section
/-! DEFINITION. Alert causes (R146 to R148), match flags and hit counts (R42, R43), anomaly class flags and
counts (R141, R144). -/
namespace Sys2Proof.Machine

/-! ### Alert Control -/

/-- The alert causes (R146). -/
inductive Cause where
  | seq
  | anomaly
  | threshold
  | loss
  | holdExpired
  | fired
  deriving DecidableEq, Repr

/-- R198: the cause sets hold SEQ, ANOMALY, THRESHOLD, LOSS, HOLD_EXPIRED, FIRED in bits 0..5. -/
def Cause.bit : Cause → BitVec 6
  | .seq => 0b000001
  | .anomaly => 0b000010
  | .threshold => 0b000100
  | .loss => 0b001000
  | .holdExpired => 0b010000
  | .fired => 0b100000

/-- R147: a raise adds the cause to the pending set, enabled or not. -/
def raise (c : Cause) (s : State) : State := s.setAlc { s.alc with pending := s.alc.pending ||| c.bit }

/-- A raise that happens only under a condition. -/
def raiseIf (b : Bool) (c : Cause) (s : State) : State := if b then raise c s else s

/-- R150: the listed causes leave the pending set. -/
def acknowledge (causes : BitVec 6) (s : State) : State :=
  s.setAlc { s.alc with pending := s.alc.pending &&& ~~~causes }

/-- R148: the ALERT line is asserted exactly when the pending and the enable set have a cause in common. -/
def alertLine (s : State) : Bool := decide (s.alc.pending &&& s.alc.enable ≠ 0)

/-! ### Match flags and hit counts -/

/-- R42: the flag set and the count increased by 1, saturating. -/
def Channel.hit (c : Channel) : Channel := { c with matchFlag := true, hitCount := satInc c.hitCount }

/-- R43: flag clear, count 0. -/
def Channel.clearMatch (c : Channel) : Channel := { c with matchFlag := false, hitCount := 0 }

/-- R42: every channel of the hit set is hit; the others keep flag and count. -/
def recordHits (hits : Byte) (s : State) : State :=
  s.setMu { channels := Vector.ofFn fun i =>
    if hits.getLsbD i.val then (s.mu.channels[i]).hit else s.mu.channels[i] }

/-- R43: CLEAR_MATCH, and MU's part of CLEAR_WATCH. -/
def clearMatches (s : State) : State :=
  s.setMu { channels := Vector.ofFn fun i => (s.mu.channels[i]).clearMatch }

/-! ### Anomaly summary -/

/-- R141: the class flag, the class count and the first-anomaly record at the take of an anomaly. -/
def recordAnomaly (a : Anomaly) (s : State) : State :=
  s.setAns { s.ans with
    flags := s.ans.flags ||| a.cls.bit
    counts := s.ans.counts.set a.cls.code.val (satInc s.ans.counts[a.cls.code]) a.cls.code.isLt
    first := match s.ans.first with
      | some f => some f
      | none => some { anomaly := a, stamp := s.tbs.timestamp } }

/-- R144: every flag clear, every count 0, no first-anomaly record; the masks are kept. -/
def clearSummary (s : State) : State :=
  s.setAns { s.ans with flags := 0, counts := Vector.replicate 6 0, first := none }

end Sys2Proof.Machine
end

