-- ==== Sys2Proof/Machine/Match.lean ====
section
/-! DEFINITION. The Match Unit: the conditions of a watch channel (R31 to R39), the hit set (R40) and its
evaluation (R29, R30). -/
namespace Sys2Proof.Machine

/-- A transaction as the channels of its side see it (R29, R30). `status` is none on the request side;
`beats` are the beats carrying data (R36), each with the byte enables that qualify its lanes (R37; read
data has none, and every lane passes). -/
structure Watched where
  side : Side
  addr : Addr
  lenM1 : BitVec 4
  kind : Kind
  initiator : BitVec 5
  context : Byte
  cls : TxnClass
  status : Option DownStatus
  beats : List (BeatData × BitVec 16)
  deriving DecidableEq, Repr

/-- R29, R36: a request as the REQUEST channels see it; a READ request carries no data. -/
def watchedRequest (r : Request) : Watched :=
  { side := .request, addr := r.addr, lenM1 := r.lenM1, kind := r.kind, initiator := r.initiator,
    context := r.context, cls := r.cls, status := none,
    beats := if r.kind = .write then r.beats.map (fun b => (b.data, b.enables)) else [] }

/-- R30, R36: a matched response as the RESPONSE channels see it: the fields of the bound entry, the status
after the form check, and the data of an OKAY READ response of correct form. -/
def watchedResponse (e : Entry) (status : DownStatus) (data : List BeatData) : Watched :=
  { side := .response, addr := e.addr, lenM1 := e.lenM1, kind := e.kind, initiator := e.initiator,
    context := e.context, cls := e.cls, status := some status,
    beats := if status = .okay ∧ e.kind = .read then data.map (fun d => (d, BitVec.allOnes 16)) else [] }

/-- The window contains a byte of first..last (R31); an empty window contains none. -/
def windowMeets (c : Channel) (first last : Nat) : Bool :=
  decide (c.windowLow.toNat ≤ c.windowHigh.toNat ∧ c.windowLow.toNat ≤ last ∧ first ≤ c.windowHigh.toNat)

/-- R31: INSIDE holds when a byte of the span lies in the window, OUTSIDE when none does. -/
def addressHolds (c : Channel) (t : Watched) : Bool :=
  windowMeets c (base16 t.addr) (spanEnd t.addr t.lenM1) != c.outside

/-- R32, R198: 1 is READ, 2 is WRITE, 0 and 3 are ANY. -/
def kindHolds (f : BitVec 2) (k : Kind) : Bool :=
  if f = 1 then decide (k = .read) else if f = 2 then decide (k = .write) else true

/-- R32, R198: 1 is ORDINARY, 2 is PRIVILEGED, 0 and 3 are ANY. -/
def classHolds (f : BitVec 2) (k : TxnClass) : Bool :=
  if f = 1 then decide (k = .ordinary) else if f = 2 then decide (k = .privileged) else true

/-- R35, R198: 1 is OKAY, 2 is FAULT, 0 and 3 are ANY; not applied to a request. -/
def statusHolds (f : BitVec 2) (st : Option DownStatus) : Bool :=
  match st with
  | none => true
  | some x => if f = 1 then decide (x = .okay) else if f = 2 then decide (x = .fault) else true

/-- R33, R39: every bit whose mask bit is 1 equals the same bit of the value. -/
def maskedEq {w : Nat} (x value mask : BitVec w) : Bool := decide ((x ^^^ value) &&& mask = 0)

/-- R34: length min ≤ length ≤ length max. -/
def lengthHolds (c : Channel) (lenM1 : BitVec 4) : Bool :=
  decide (c.lengthMin.toNat ≤ beatsOf lenM1 ∧ beatsOf lenM1 ≤ c.lengthMax.toNat)

/-- R36: the candidate lanes of a beat; select codes 4 to 7 are ANY (R189). -/
def candidateLanes (sel : BitVec 3) : List Nat := if sel.toNat < 4 then [sel.toNat] else [0, 1, 2, 3]

/-- R38: beat `k` qualifies: window-bound is clear, or one of the beat's 16 bytes lies in the window. -/
def beatQualifies (c : Channel) (t : Watched) (k : Nat) : Bool :=
  !c.windowBound || windowMeets c (base16 t.addr + 16 * k) (base16 t.addr + 16 * k + 15)

/-- R37, R39: a candidate lane is compared (fully enabled) and passes the test. -/
def lanePasses (c : Channel) (b : BeatData × BitVec 16) (n : Nat) : Bool :=
  laneEnabled b.2 n && maskedEq (lane b.1 n) c.dataValue c.dataMask

/-- R36 to R39: the data condition; it holds when any compared lane of any qualifying beat passes. -/
def dataHolds (c : Channel) (t : Watched) : Bool :=
  !c.dataFilter || t.beats.zipIdx.any (fun p =>
    beatQualifies c t p.2 && (candidateLanes c.laneSelect).any (fun n => lanePasses c p.1 n))

/-- R40: the channel is enabled, on the transaction's side, and all its conditions hold. -/
def channelMatches (c : Channel) (t : Watched) : Bool :=
  c.enable && decide (c.side = t.side) && addressHolds c t && kindHolds c.kindFilter t.kind
  && maskedEq t.initiator c.initValue c.initMask && maskedEq t.context c.ctxValue c.ctxMask
  && classHolds c.classFilter t.cls && lengthHolds c t.lenM1 && statusHolds c.statusFilter t.status
  && dataHolds c t

/-- One channel's member of a hit set: bit n for Wn. -/
def hitBit (cs : Vector Channel 8) (t : Watched) (n : Fin 8) : Byte :=
  if channelMatches cs[n] t then 1#8 <<< n.val else 0

/-- R40: the hit set, W0..W7 in bits 0..7. -/
def hitSet (cs : Vector Channel 8) (t : Watched) : Byte :=
  hitBit cs t 0 ||| hitBit cs t 1 ||| hitBit cs t 2 ||| hitBit cs t 3
  ||| hitBit cs t 4 ||| hitBit cs t 5 ||| hitBit cs t 6 ||| hitBit cs t 7

end Sys2Proof.Machine
end

