-- ==== Sys2Proof/Machine/Ops.lean ====
section
/-! DEFINITION. The shared operations of the blocks: the counts of OTT and the store, the placement of a group
(TCU and TST), the take of an anomaly (ANS), the hold and the offer (RQP), the claims (OTT, TST, RMG), the passage
of a response (RSP) and the delivery of actions (TSQ). -/
namespace Sys2Proof.Machine

/-! ### Slots of OTT -/

/-- The slot numbers in ascending order (R17, R140). -/
def slotNumbers : List (Fin 64) := List.finRange 64

/-- Slot `n` of OTT. -/
def entry (s : State) (n : Fin 64) : Entry := s.ott.slots[n]

/-- OTT with slot `n` changed. -/
def setEntry (n : Fin 64) (e : Entry) (s : State) : State :=
  s.setOtt { s.ott with slots := s.ott.slots.set n e }

/-- OTT with every slot changed. -/
def mapEntries (f : Entry → Entry) (s : State) : State :=
  s.setOtt { s.ott with slots := Vector.ofFn fun i => f s.ott.slots[i] }

/-- The number of slots in a state (R1). -/
def slotCount (st : SlotState) (s : State) : Nat := s.ott.slots.toList.countP (fun e => decide (e.state = st))

/-- R4: the lowest-numbered FREE slot. -/
def lowestFree (s : State) : Option (Fin 64) := slotNumbers.find? (fun n => decide ((entry s n).state = .free))

/-- R8: the entry of slot `n` is bound to RSP. -/
def bound (s : State) (n : Fin 64) : Bool :=
  match s.rsp.inProcess with
  | some t => decide (t.slot = n)
  | none => false

/-- R9, R10, R20: a freed slot: FREE, with expired, traced and reservation cleared and every other field kept. -/
def Entry.freed (e : Entry) : Entry := { e with state := .free, expired := false, traced := false, reservation := 0 }

/-- R23: traced and reservation cleared. -/
def Entry.untraced (e : Entry) : Entry := { e with traced := false, reservation := 0 }

/-! ### Counts of the store -/

/-- R115: the slots of the record in transmission not yet freed. -/
def egressTail (s : State) : Nat :=
  match s.tst.tx with
  | some x => x.record.length - x.slotPos
  | none => 0

/-- R115: the slots of the record sequence plus the egress tail. -/
def fill (s : State) : Nat := slotsOf s.tst.records + egressTail s

/-- R122: the sum of the reservation fields of the OTT entries. -/
def reserved (s : State) : Nat := (s.ott.slots.toList.map Entry.reservation).sum

/-- R116: 4096 minus the fill and the reserved count. -/
def freeSlots (s : State) : Nat := Config.storeSlots - (fill s + reserved s)

/-- R115, R123: the granted claim. -/
def claim (s : State) : Nat :=
  match s.tcu.capture with
  | some c => if c.granted then c.claimSize else 0
  | none => 0

/-- R115: the free slots minus the claim. -/
def unclaimedFree (s : State) : Nat := freeSlots s - claim s

/-- R127: the store mode in force. -/
def modeOf (s : State) : StoreMode := storeMode s.tst.mode

/-- R126: THRESHOLD is raised when the fill goes from below the effective threshold to at or above it. -/
def crosses (s : State) (before after : Nat) : Bool :=
  decide (before < effectiveThreshold s.tst.threshold ∧ effectiveThreshold s.tst.threshold ≤ after)

/-! ### Placing a group (R103, R104, R117 to R124) -/

/-- R117: the outcome of a group. -/
inductive GroupOutcome where
  | placed
  | droppedCounted
  | droppedUncounted
  deriving DecidableEq, Repr

/-- 6.2: what a group is offered with: nothing, the granted claim together with the response reservation that
comes out of it too (R122), or an entry's reservation. -/
inductive Backing where
  | unbacked
  | claim (responseReservation : Nat)
  | reservation (slot : Fin 64)
  deriving DecidableEq, Repr

/-- R118: whole records leave from the oldest end until `size` slots are free; how many left, and what stays. -/
def ringRemove (free size : Nat) : List Record → Nat × List Record
  | [] => (0, [])
  | r :: rs =>
    if size ≤ free then (0, r :: rs)
    else
      let rest := ringRemove (free + r.length) size rs
      (rest.1 + 1, rest.2)

/-- R117: the group's records are appended at the newest end; R126 compares the fill with what it was before. -/
def appendGroup (group : List Record) (before : Nat) (s : State) : State :=
  let s1 := s.setTst { s.tst with records := s.tst.records ++ group }
  raiseIf (crosses s before (fill s1)) .threshold s1

/-- R118, R119: the RING mode. -/
def ringTake (group : List Record) (s : State) : GroupOutcome × State :=
  if slotsOf group ≤ freeSlots s then (.placed, appendGroup group (fill s) s)
  else if 0 < s.tst.snapshot.getD 0 then (.droppedCounted, s)
  else
    let r := ringRemove (freeSlots s) (slotsOf group) s.tst.records
    let s1 := s.setTst { s.tst with records := r.2, overwrite := satAdd s.tst.overwrite r.1 }
    if slotsOf group ≤ freeSlots s1 then (.placed, appendGroup group (fill s) s1) else (.droppedCounted, s)

/-- R120: the STOP mode. -/
def stopTake (group : List Record) (s : State) : GroupOutcome × State :=
  if !s.tst.stopped && decide (slotsOf group ≤ freeSlots s) then (.placed, appendGroup group (fill s) s)
  else (.droppedUncounted, s.setTst { s.tst with stopped := true })

/-- R121: the STREAM_DROP mode. -/
def dropTake (group : List Record) (s : State) : GroupOutcome × State :=
  if slotsOf group ≤ unclaimedFree s then (.placed, appendGroup group (fill s) s) else (.droppedCounted, s)

/-- R96, R123, R124: the STREAM_STALL mode. An unbacked group comes out of the unclaimed free slots. A group
backed by the claim is placed (the claim holds it and the response reservation, R95). A group backed by an
entry's reservation takes its record out of the reservation and its LOSS and SYNC members out of the unclaimed
free slots. -/
def stallTake (group : List Record) (recordSize : Nat) (backing : Backing) (s : State) : GroupOutcome × State :=
  match backing with
  | .unbacked =>
    if slotsOf group ≤ unclaimedFree s then (.placed, appendGroup group (fill s) s) else (.droppedCounted, s)
  | .claim response =>
    if slotsOf group + response ≤ freeSlots s then (.placed, appendGroup group (fill s) s)
    else (.droppedCounted, s)
  | .reservation n =>
    if slotsOf group - recordSize ≤ unclaimedFree s ∧ recordSize ≤ (entry s n).reservation then
      (.placed, appendGroup group (fill s)
        (setEntry n { entry s n with reservation := (entry s n).reservation - recordSize } s))
    else (.droppedCounted, s)

/-- R117: TST takes a group. In OFF none is offered (R101). -/
def storeTake (group : List Record) (recordSize : Nat) (backing : Backing) (s : State) : GroupOutcome × State :=
  match modeOf s with
  | .off => (.droppedUncounted, s)
  | .ring => ringTake group s
  | .stop => stopTake group s
  | .streamDrop => dropTake group s
  | .streamStall => stallTake group recordSize backing s

/-- R103, R107: a SYNC record stands in the group. -/
def needsSync (s : State) : Bool :=
  s.tcu.syncNeeded || decide (s.tbs.timestamp.extractLsb' 16 16 ≠ s.tcu.lastSyncHigh)

/-- R103: a LOSS record stands in the group. -/
def needsLoss (s : State) : Bool := decide (s.tcu.lossCount ≠ 0)

/-- R103: the group: LOSS, SYNC, the record. -/
def composeGroup (r : Record) (s : State) : List Record :=
  (if needsLoss s then [lossRecord s.tcu.lossCount s.tbs.timestamp] else [])
  ++ (if needsSync s then [syncRecord s.tbs.timestamp] else []) ++ [r]

/-- R104: TCU acts on a placed group: `loss` and `sync` say whether it held those records, `reference` is the
address and context of a REQUEST record (R106). -/
def groupPlaced (loss sync : Bool) (reference : Option (Addr × Byte)) (now : Word) (t : Tcu) : Tcu :=
  let t1 := if loss then { t with lossCount := 0 } else t
  let t2 := if sync then
      { t1 with lastSyncHigh := now.extractLsb' 16 16, syncNeeded := false, refValid := false }
    else t1
  match reference with
  | some r => { t2 with refValid := true, refAddr := r.1, refContext := r.2 }
  | none => t2

/-- R104: TCU acts on a dropped group. -/
def groupDropped (counted : Bool) (t : Tcu) : Tcu :=
  { t with
    lossCount := if counted then satInc t.lossCount else t.lossCount
    syncNeeded := true
    refValid := false }

/-- R101, R103, R104: TCU takes one record request: it composes the group, offers it to TST and acts on the
outcome. The answer says whether the group was placed. In the OFF mode no record is built. -/
def offerRecord (r : Record) (backing : Backing) (reference : Option (Addr × Byte)) (s : State) : Bool × State :=
  if modeOf s = .off then (false, s)
  else
    let taken := storeTake (composeGroup r s) r.length backing s
    match taken.1 with
    | .placed =>
      (true, taken.2.setTcu (groupPlaced (needsLoss s) (needsSync s) reference s.tbs.timestamp taken.2.tcu))
    | .droppedCounted => (false, raise .loss (taken.2.setTcu (groupDropped true taken.2.tcu)))
    | .droppedUncounted => (false, taken.2.setTcu (groupDropped false taken.2.tcu))

/-- R101: an event record, without a reservation. -/
def offerEvent (r : Record) (s : State) : State := (offerRecord r .unbacked none s).2

/-! ### Anomalies -/

/-- R141: ANS takes an anomaly: the summary, the AN latch, the ANOMALY cause and the ANOMALY record. -/
def takeAnomaly (a : Anomaly) (s : State) : State :=
  let s1 := recordAnomaly a s
  let s2 := if s1.ans.anMask &&& a.cls.bit ≠ 0 then s1.setTsq { s1.tsq with an := true } else s1
  let s3 := raiseIf (decide (s2.ans.alertMask &&& a.cls.bit ≠ 0)) .anomaly s2
  offerEvent (anomalyRecord a s3.tbs.timestamp) s3

/-- R138: the report of an anomaly of an entry. -/
def entryAnomaly (c : AnomalyClass) (n : Fin 64) (e : Entry) : Anomaly :=
  { cls := c, slot := slotCode n, initiator := e.initiator, tag := e.tag, addr := e.addr }

/-- R138: the report of an anomaly of a request. -/
def requestAnomaly (c : AnomalyClass) (slot : BitVec 7) (r : Request) : Anomaly :=
  { cls := c, slot := slot, initiator := r.initiator, tag := r.tag, addr := r.addr }

/-! ### The queue of RMG -/

/-- R175: RQP's reservation, 0 or 1. -/
def reservedPositions (s : State) : Nat := if s.rqp.inProcess.isSome then 1 else 0

/-- R175: a position is free and unreserved. -/
def positionFree (s : State) : Bool := decide (s.rmg.queue.length + reservedPositions s < Config.queuePositions)

/-- R166: the conditions of acceptance, the link being up. -/
def acceptsRequest (s : State) : Bool :=
  s.rqp.inProcess.isNone && !s.rqp.held && (lowestFree s).isSome && positionFree s

/-- R176: a synthesized response enters the queue at its newest end. -/
def enqueue (r : UpResponse) (s : State) : State := s.setRmg { s.rmg with queue := s.rmg.queue ++ [r] }

/-- The synthesized answer to a request, without data (R6, R86, R164). -/
def answerTo (r : Request) (status : UpStatus) : UpResponse :=
  { tag := r.tag, initiator := r.initiator, status := status, data := [] }

/-! ### Room wait and the downstream offer (R123, R169) -/

/-- The request in process of RQP, changed. -/
def setTxn (t : Option RqpTxn) (s : State) : State := s.setRqp { s.rqp with inProcess := t }

/-- The capture in hand, changed. -/
def setCapture (c : Option Capture) (s : State) : State := s.setTcu { s.tcu with capture := c }

/-- R169: the request needs no claim, or its claim has been granted. -/
def claimSatisfied (s : State) : Bool :=
  match s.tcu.capture with
  | some c => c.granted || decide (c.claimSize = 0)
  | none => true

/-- R123: a claim not yet granted is granted when the free slots are at least its size. -/
def grantClaim (s : State) : State :=
  match s.tcu.capture with
  | some c =>
    if !c.granted && decide (0 < c.claimSize) && decide (c.claimSize ≤ freeSlots s) then
      setCapture (some { c with granted := true }) s
    else s
  | none => s

/-- R4, R169: the downstream offer begins with the lowest-numbered FREE slot selected. There is one whenever
RQP holds a request (R3). -/
def beginOffer (t : RqpTxn) (s : State) : State :=
  match lowestFree s with
  | some n => setTxn (some { t with phase := .offered n }) s
  | none => s

/-- R123, R169: a request in ROOM_WAIT gets its claim if there is room, and begins its offer when its claim is
satisfied and the hold is not in effect. Called at every event that can make either true. -/
def settleRoom (s : State) : State :=
  match s.rqp.inProcess with
  | some t =>
    if t.phase = .roomWait then
      let s1 := grantClaim s
      if claimSatisfied s1 && !s1.rqp.held then beginOffer t s1 else s1
    else s
  | none => s

/-- R97: the capture in hand is cancelled and its claim released; a request in ROOM_WAIT leaves that phase at
once: it begins its offer, or waits at the hold point while the hold is in effect (log entry 10). -/
def cancelCapture (s : State) : State :=
  let s1 := setCapture none s
  match s1.rqp.inProcess with
  | some t =>
    if t.phase = .roomWait then
      if s1.rqp.held then setTxn (some { t with phase := .holdPoint }) s1 else beginOffer t s1
    else s1
  | none => s1

/-! ### Capture decisions (R94) -/

/-- R94: the request is captured. -/
def eligible (hits : Byte) (s : State) : Bool :=
  decide (modeOf s ≠ .off) && s.tcu.capturing && (!s.tcu.byChannels || decide (hits &&& s.tcu.captureSet ≠ 0))

/-- R94: the REQUEST record carries the first beat. -/
def withFirstBeat (r : Request) (s : State) : Bool := decide (r.kind = .write) && s.tcu.firstBeat

/-- R94: the response reservation of a forwarded request. -/
def responseReservation (r : Request) (s : State) : Nat :=
  if modeOf s = .streamStall then (if r.kind = .read ∧ s.tcu.firstBeat then 3 else 1) else 0

/-- R95: the claim size: LOSS, SYNC, the REQUEST record in FULL form and the response reservation. -/
def claimSizeOf (r : Request) (s : State) : Nat :=
  if modeOf s = .streamStall then (1 + 1 + (if withFirstBeat r s then 4 else 2)) + responseReservation r s else 0

/-- R94: the capture decision of a request that is to be forwarded. -/
def decideCapture (t : RqpTxn) (s : State) : State :=
  setCapture
    (if eligible t.hits s then
      some { withData := withFirstBeat t.req s, responseReservation := responseReservation t.req s,
             claimSize := claimSizeOf t.req s, granted := false }
    else none) s

/-! ### Expiries and claims (R14 to R17) -/

/-- R14: the slot is due. -/
def due (s : State) (n : Fin 64) : Bool :=
  decide ((entry s n).state = .live) && !bound s n && decide (s.ott.timeout ≠ 0)
  && decide (s.ott.timeout.toNat ≤ (entry s n).age.toNat)

/-- R15: the expiry of a due slot under REPORT; a slot with expired set is left as it is. -/
def expireReport (n : Fin 64) (s : State) : State :=
  if due s n && !(entry s n).expired then
    takeAnomaly (entryAnomaly .timeout n (entry s n)) (setEntry n { entry s n with expired := true } s)
  else s

/-- R16, R100: the RESPONSE record of an abandoned traced entry, offered with its reservation; then traced is
cleared and the reservation released, which may grant a waiting claim (R123). -/
def timeoutRecord (n : Fin 64) (s : State) : State :=
  let e := entry s n
  if e.traced then
    let s1 := (offerRecord (responseRecord .timeout e.initiator e.tag (slotCode n) e.age none s.tbs.timestamp)
      (.reservation n) none s).2
    settleRoom (setEntry n (entry s1 n).untraced s1)
  else s

/-- R16: an anomaly is handed only if expired was clear. -/
def timeoutAnomaly (n : Fin 64) (e : Entry) (s : State) : State :=
  if e.expired then s else takeAnomaly (entryAnomaly .timeout n e) s

/-- R16: the expiry under ABANDON of a due slot whose claim found a position. The order in which TCU takes
the two records of the expiry is left open (log entry 2). -/
def abandon (n : Fin 64) (s : State) : State :=
  let e := entry s n
  let s1 := enqueue { tag := e.tag, initiator := e.initiator, status := .timeout, data := [] } s
  let s2 := setEntry n { e with state := .orphaned } s1
  if e.traced && !e.expired then
    let s3 := s2.setChoices (s2.choices + 1)
    if Config.anomalyRecordFirst s2.choices then timeoutRecord n (timeoutAnomaly n e s3)
    else timeoutAnomaly n e (timeoutRecord n s3)
  else timeoutRecord n (timeoutAnomaly n e s2)

/-- R17: one slot's claim: a due slot under ABANDON with a free unreserved position is abandoned, otherwise
it stays as it is (deferred, when due). -/
def claimFor (s : State) (n : Fin 64) : State :=
  if decide (s.ott.policy = .abandon) && due s n && positionFree s then abandon n s else s

/-- R17: claims for the due slots in ascending slot number, until no free unreserved position remains. -/
def makeClaims (s : State) : State := slotNumbers.foldl claimFor s

/-- R167: one slot's claim when an offered request goes first: the last free unreserved position is the request's. -/
def claimKeepingOne (s : State) (n : Fin 64) : State :=
  if s.rmg.queue.length + reservedPositions s + 1 < Config.queuePositions then claimFor s n else s

/-- R167: the claims for the due slots when an offered request goes first. -/
def makeClaimsKeepingOne (s : State) : State := slotNumbers.foldl claimKeepingOne s

/-- R161: a request is offered on the upstream request channel: its take is the command in front (log entry 1). -/
def requestOffered (s : State) : Bool :=
  match s.pending.head? with
  | some (.upstreamRequestTake _) => true
  | _ => false

/-- R176: a due slot under ABANDON and an offered request that the part would accept both want a freed position. -/
def positionContested (s : State) : Bool :=
  decide (s.ott.policy = .abandon) && slotNumbers.any (due s) && requestOffered s && acceptsRequest s

/-- R176, R167: RMG reports the position of a taken response as free. OTT makes its deferred claims; which of a
deferred expiry and an offered request gets the position is left open (log entry 15). -/
def claimAtReport (s : State) : State :=
  if positionContested s then
    let s1 := s.setChoices (s.choices + 1)
    if Config.requestTakesFreedPosition s.choices then makeClaimsKeepingOne s1 else makeClaims s1
  else makeClaims s

/-! ### The hold (R77 to R81) -/

/-- R79: RELEASE, on the held flag. -/
def releaseFlag (s : State) : State := s.setRqp { s.rqp with held := false }

/-- R77, R78: HOLD: the hold begins at age 0 if it is not in effect, and an offer is withdrawn to the hold
point, keeping its capture decision. -/
def hold (s : State) : State :=
  let s1 := if s.rqp.held then s else s.setRqp { s.rqp with held := true, holdAge := 0 }
  match s1.rqp.inProcess with
  | some t =>
    match t.phase with
    | .offered _ => setTxn (some { t with phase := .holdPoint }) s1
    | _ => s1
  | none => s1

/-- R79, R80: the hold ends by a release, and a request that only the hold kept in ROOM_WAIT begins its offer. -/
def release (s : State) : State := settleRoom (releaseFlag s)

/-! ### Answers and verdicts -/

/-- R6, R164: RQP answers its request PROTOCOL in its reserved position and is EMPTY; the anomaly is handed. -/
def answerProtocol (r : Request) (a : Anomaly) (s : State) : State :=
  takeAnomaly a (enqueue (answerTo r .protocol) (setTxn none s))

/-- R98: the two groups of a captured fenced request: REQUEST in FULL form with slot none, then, if it was
placed, RESPONSE with status FENCED, slot none and latency 0. -/
def fencedRecords (t : RqpTxn) (s : State) : State :=
  let first := offerRecord (requestFull t.req (withFirstBeat t.req s) true slotNone s.tbs.timestamp) .unbacked
    (some (t.req.addr, t.req.context)) s
  if first.1 then
    offerEvent (responseRecord .fenced t.req.initiator t.req.tag slotNone 0 none first.2.tbs.timestamp) first.2
  else first.2

/-- R86, R87: RQP acts on the verdict FENCE. -/
def fenceRequest (s : State) : State :=
  match s.rqp.inProcess with
  | some t =>
    let s1 := enqueue (answerTo t.req .fenced) (setTxn none s)
    if eligible t.hits s1 then fencedRecords t s1 else s1
  | none => s

/-- R165: RQP acts on the verdict FORWARD: the request goes to the hold point. -/
def forwardRequest (s : State) : State :=
  match s.rqp.inProcess with
  | some t => if t.phase = .verdictWait then setTxn (some { t with phase := .holdPoint }) s else s
  | none => s

/-- R8, R88: the response that RSP offers upstream. -/
def upstreamAnswer (e : Entry) (t : RspTxn) (fence : Bool) : UpResponse :=
  if fence then { tag := e.tag, initiator := e.initiator, status := .fenced, data := [] }
  else { tag := e.tag, initiator := e.initiator, status := upStatus t.status, data := t.data }

/-- R99: the status of the RESPONSE record. -/
def recordStatus (t : RspTxn) (fence : Bool) : RecordStatus :=
  if fence then .fenced else match t.status with
    | .okay => .okay
    | .fault => .fault

/-- R99: the record carries the first beat: an OKAY READ of correct form that is not fenced, and, in STREAM_STALL,
a reservation of 3, in the other modes the data option FIRST_BEAT. -/
def responseData (e : Entry) (t : RspTxn) (fence : Bool) (s : State) : Option BeatData :=
  if fence = false ∧ t.status = .okay ∧ e.kind = .read
      ∧ (if modeOf s = .streamStall then e.reservation = 3 else s.tcu.firstBeat = true) then
    some (t.data.headD 0)
  else none

/-- R99, R174: after the verdict, or after the evaluation when there was no report, RSP asks for the RESPONSE
record of a traced entry and enters OFFERED. -/
def answerResponse (fence : Bool) (s : State) : State :=
  match s.rsp.inProcess with
  | some t =>
    let e := entry s t.slot
    let s1 := if e.traced then
        (offerRecord (responseRecord (recordStatus t fence) e.initiator e.tag (slotCode t.slot)
          (satHalf (s.tbs.timestamp - e.stamp).toNat) (responseData e t fence s) s.tbs.timestamp)
          (.reservation t.slot) none s).2
      else s
    s1.setRsp { inProcess := some { t with phase := .offered (upstreamAnswer e t fence) } }
  | none => s

/-- R70: RSP's waiting report is answered FORWARD. -/
def forwardResponse (s : State) : State :=
  match s.rsp.inProcess with
  | some t => if t.phase = .verdictWait then answerResponse false s else s
  | none => s

/-! ### Actions (R58) -/

/-- R73, R74: PULSE: the driver starts a pulse, or the pulse in progress goes on. -/
def startPulse (s : State) : State :=
  match s.pulse with
  | .low => s.setPulse (.driving 0)
  | .driving _ => s

/-- R89: CAPTURING set or cleared. -/
def setCapturing (b : Bool) (s : State) : State := s.setTcu { s.tcu with capturing := b }

/-- R58: the actions of a transition, RELEASE before HOLD and CAPTURE_OFF before CAPTURE_ON; FENCE is not
delivered. A request that a RELEASE lets go on does so after all of them (R57, R80). -/
def deliver (a : BitVec 7) (s : State) : State :=
  let s1 := if Action.release a then releaseFlag s else s
  let s2 := if Action.hold a then hold s1 else s1
  let s3 := if Action.captureOff a then setCapturing false s2 else s2
  let s4 := if Action.captureOn a then setCapturing true s3 else s3
  let s5 := raiseIf (Action.alert a) .seq s4
  let s6 := if Action.pulse a then startPulse s5 else s5
  settleRoom s6

/-! ### Links and power -/

/-- R180: neither LRST_N nor PORST_N is asserted. -/
def linkUp (s : State) : Bool := !s.pins.porst && !s.pins.lrst

/-- R180, R199: while PORST_N is asserted every block is held in its power-on state: nothing is taken. -/
def whenPowered (f : State → State) (s : State) : Result := .next (if s.pins.porst then s else f s)

/-- A message passes only while both link ports are up (R161, R180). -/
def whenLinkUp (f : State → State) (s : State) : Result := .next (if linkUp s then f s else s)

end Sys2Proof.Machine
end

