-- ==== Sys2Proof/Machine/Window.lean ====
section
/-! DEFINITION. The register window (R187 to R190, R197): its words, what each shows, and what writing each does. -/
namespace Sys2Proof.Machine

/-- R197: the words of the window. A channel word is numbered +0 to +11, a stage word +0 to +7. -/
inductive WinWord where
  | timeout
  | holdLimit
  | divisor
  | channel (n : Fin 8) (k : Fin 12)
  | stage (n : Fin 4) (k : Fin 8)
  | storeMode
  | captureSelection
  | dataOption
  | threshold
  | alertEnable
  | alertPending
  | anomalyMasks
  | anomalyFlags
  | anomalyCounts0
  | anomalyCounts1
  | firstAnomaly
  | firstAddressLow
  | firstAddressHigh
  | firstTimestamp
  | sequencer
  | exitCounters
  | dwellAge
  | paths
  | holdAge
  | tableCounts
  | timeoutInForce
  | merge
  | store
  | counts
  | timestamp
  deriving DecidableEq, Repr

/-- The words at the single indices of R197. -/
def singleWords : List (Nat × WinWord) :=
  [(0x000, .timeout), (0x001, .holdLimit), (0x002, .divisor), (0x090, .storeMode), (0x091, .captureSelection),
   (0x092, .dataOption), (0x093, .threshold), (0x0A0, .alertEnable), (0x0A1, .alertPending),
   (0x0B0, .anomalyMasks), (0x0B1, .anomalyFlags), (0x0B2, .anomalyCounts0), (0x0B3, .anomalyCounts1),
   (0x0B4, .firstAnomaly), (0x0B5, .firstAddressLow), (0x0B6, .firstAddressHigh), (0x0B7, .firstTimestamp),
   (0x0C0, .sequencer), (0x0C1, .exitCounters), (0x0C2, .dwellAge), (0x0C3, .paths), (0x0C4, .holdAge),
   (0x0C5, .tableCounts), (0x0C6, .timeoutInForce), (0x0C7, .merge), (0x0C8, .store), (0x0C9, .counts),
   (0x0CA, .timestamp)]

/-- R197: the word at an index, `none` outside the window. -/
def wordAt (i : Nat) : Option WinWord :=
  if h : 0x010 ≤ i ∧ i < 0x070 then some (.channel ⟨(i - 0x010) / 12, by omega⟩ ⟨(i - 0x010) % 12, by omega⟩)
  else if h : 0x070 ≤ i ∧ i < 0x090 then some (.stage ⟨(i - 0x070) / 8, by omega⟩ ⟨(i - 0x070) % 8, by omega⟩)
  else (singleWords.find? (fun p => p.1 = i)).map Prod.snd

/-- R190: the words under the program lock. -/
def locked : WinWord → Bool
  | .channel _ k => decide (k.val ≤ 10)
  | .stage _ _ => true
  | _ => false

/-- R197: the read-only words. -/
def readOnly : WinWord → Bool
  | .timeout | .holdLimit | .divisor | .stage _ _ | .storeMode | .captureSelection | .dataOption | .threshold
  | .alertEnable | .anomalyMasks => false
  | .channel _ k => decide (k.val = 11)
  | .alertPending | .anomalyFlags | .anomalyCounts0 | .anomalyCounts1 | .firstAnomaly | .firstAddressLow
  | .firstAddressHigh | .firstTimestamp | .sequencer | .exitCounters | .dwellAge | .paths | .holdAge
  | .tableCounts | .timeoutInForce | .merge | .store | .counts | .timestamp => true

/-! ### Reading (R187) -/

/-- R197: the timeout word. -/
def timeoutWord (s : State) : Word := place 32 0 s.ott.timeout ||| place 32 16 s.ott.policy.code

/-- R197: 0x0B4, all 0 while first-anomaly valid is clear (R139). -/
def firstWord (s : State) : Word :=
  match s.ans.first with
  | some f => place 32 0 (BitVec.ofNat 3 f.anomaly.cls.code.val) ||| place 32 8 f.anomaly.slot
      ||| place 32 16 f.anomaly.initiator ||| place 32 24 f.anomaly.tag
  | none => 0

/-- The address of the first-anomaly record, 0 while it is not valid (R139). -/
def firstAddr (s : State) : Addr :=
  match s.ans.first with
  | some f => f.anomaly.addr
  | none => 0

/-- The timestamp of the first-anomaly record, 0 while it is not valid (R139). -/
def firstStamp (s : State) : Word :=
  match s.ans.first with
  | some f => f.stamp
  | none => 0

/-- R197: 0x0C0, the latch bits as R198 lists them. -/
def sequencerWord (s : State) : Word :=
  place 32 0 s.tsq.state.code ||| place 32 2 (BitVec.ofNat 2 s.tsq.stage.val)
  ||| place 32 4 (flag s.tsq.rqpReport.isSome) ||| place 32 5 (flag s.tsq.rspReport.isSome)
  ||| place 32 6 (flag s.tsq.xt) ||| place 32 7 (flag s.tsq.an) ||| place 32 8 (flag s.tsq.dwellExpiry)
  ||| place 32 9 (flag s.tsq.command.isSome)

/-- R198: the phase of RQP, 0 for EMPTY. -/
def rqpPhaseCode (s : State) : BitVec 3 :=
  match s.rqp.inProcess with
  | some t => t.phase.code
  | none => 0

/-- R198: the phase of RSP, 0 for EMPTY. -/
def rspPhaseCode (s : State) : BitVec 2 :=
  match s.rsp.inProcess with
  | some t => t.phase.code
  | none => 0

/-- R187, R197: what a word shows; a read-write word reads back as written, its undefined bits 0. -/
def readWord (s : State) : WinWord → Word
  | .timeout => timeoutWord s
  | .holdLimit => place 32 0 s.rqp.holdLimit
  | .divisor => place 32 0 s.tbs.divisor
  | .channel n k => (s.mu.channels[n]).word k.val
  | .stage n k => (s.tsq.stages[n]).word k.val
  | .storeMode => place 32 0 s.tst.mode
  | .captureSelection => place 32 0 s.tcu.captureSet ||| place 32 8 (flag s.tcu.byChannels)
  | .dataOption => place 32 0 (flag s.tcu.firstBeat)
  | .threshold => place 32 0 s.tst.threshold
  | .alertEnable => place 32 0 s.alc.enable
  | .alertPending => place 32 0 s.alc.pending
  | .anomalyMasks => place 32 0 s.ans.anMask ||| place 32 8 s.ans.alertMask
  | .anomalyFlags => place 32 0 s.ans.flags ||| place 32 8 (flag s.ans.first.isSome)
  | .anomalyCounts0 => place 32 0 s.ans.counts[0] ||| place 32 8 s.ans.counts[1] ||| place 32 16 s.ans.counts[2]
      ||| place 32 24 s.ans.counts[3]
  | .anomalyCounts1 => place 32 0 s.ans.counts[4] ||| place 32 8 s.ans.counts[5]
  | .firstAnomaly => firstWord s
  | .firstAddressLow => addrLow (firstAddr s)
  | .firstAddressHigh => addrHigh (firstAddr s)
  | .firstTimestamp => firstStamp s
  | .sequencer => sequencerWord s
  | .exitCounters => place 32 0 s.tsq.counter0 ||| place 32 16 s.tsq.counter1
  | .dwellAge => place 32 0 s.tsq.dwellAge
  | .paths => place 32 0 (rqpPhaseCode s) ||| place 32 3 (flag s.rqp.inProcess.isSome)
      ||| place 32 4 (rspPhaseCode s) ||| place 32 8 (flag s.rqp.held)
  | .holdAge => place 32 0 s.rqp.holdAge
  | .tableCounts => place 32 0 (BitVec.ofNat 7 (slotCount .free s)) ||| place 32 8 (BitVec.ofNat 7 (slotCount .live s))
      ||| place 32 16 (BitVec.ofNat 7 (slotCount .orphaned s)) ||| place 32 24 s.ott.purgeCount
  | .timeoutInForce => timeoutWord s
  | .merge => place 32 0 (BitVec.ofNat 4 s.rmg.queue.length) ||| place 32 4 (flag s.rqp.inProcess.isSome)
      ||| place 32 5 s.rmg.pointer.code ||| place 32 6 (offerCode s.rmg.offer)
  | .store => place 32 0 (BitVec.ofNat 13 (fill s)) ||| place 32 16 (BitVec.ofNat 8 (reserved s))
      ||| place 32 24 (flag s.tst.stopped) ||| place 32 25 (flag s.tcu.capturing)
  | .counts => place 32 0 s.tst.overwrite ||| place 32 16 s.tcu.lossCount
  | .timestamp => s.tbs.timestamp

/-- The words of a range, `none` where an index lies outside the window (R187, R188). -/
def rangeWords (index : Half) (count : Byte) : List (Option WinWord) :=
  (List.range count.toNat).map (fun i => wordAt (index.toNat + i))

/-- R187, R188: the count lies in 1..64 and every index of the range lies in the window. -/
def rangeInWindow (index : Half) (count : Byte) : Bool :=
  countValid count && (rangeWords index count).all Option.isSome

/-- R187: the status of a READ_REG frame. -/
def readRegStatus (index : Half) (count : Byte) : Status := if rangeInWindow index count then .ok else .badIndex

/-- R187: the bytes of a READ_REG snapshot, the words in ascending index. -/
def readRegData (index : Half) (count : Byte) (s : State) : List Byte :=
  (rangeWords index count).flatMap (fun w =>
    match w with
    | some x => wordBytes (readWord s x)
    | none => [])

/-! ### Writing (R188) -/

/-- R128, R114: a mode write. -/
def writeMode (mode : BitVec 3) (s : State) : State :=
  let s1 := mapEntries Entry.untraced s
  let s2 := s1.setTst { s1.tst with mode := mode, records := [], overwrite := 0, stopped := false }
  let s3 := s2.setTcu { s2.tcu with lossCount := 0, refValid := false, syncNeeded := true }
  cancelCapture s3

/-- R188: the effect of a written word in the block that owns it; bits the map does not name are ignored. -/
def writeWord (s : State) (x : WinWord) (w : Word) : State :=
  match x with
  | .timeout => s.setOtt { s.ott with
      timeout := w.extractLsb' 0 16, policy := if w.getLsbD 16 then .abandon else .report }
  | .holdLimit => s.setRqp { s.rqp with holdLimit := w.extractLsb' 0 16 }
  | .divisor => s.setTbs { s.tbs with divisor := w.extractLsb' 0 16, prescale := 0 }
  | .channel n k => s.setMu { channels := s.mu.channels.set n ((s.mu.channels[n]).write k.val w) }
  | .stage n k => s.setTsq { s.tsq with stages := s.tsq.stages.set n ((s.tsq.stages[n]).write k.val w) }
  | .storeMode => writeMode (w.extractLsb' 0 3) s
  | .captureSelection => s.setTcu { s.tcu with captureSet := w.extractLsb' 0 8, byChannels := w.getLsbD 8 }
  | .dataOption => s.setTcu { s.tcu with firstBeat := w.getLsbD 0 }
  | .threshold => s.setTst { s.tst with threshold := w.extractLsb' 0 13 }
  | .alertEnable => s.setAlc { s.alc with enable := w.extractLsb' 0 6 }
  | .anomalyMasks => s.setAns { s.ans with anMask := w.extractLsb' 0 6, alertMask := w.extractLsb' 8 6 }
  | .alertPending | .anomalyFlags | .anomalyCounts0 | .anomalyCounts1 | .firstAnomaly | .firstAddressLow
  | .firstAddressHigh | .firstTimestamp | .sequencer | .exitCounters | .dwellAge | .paths | .holdAge
  | .tableCounts | .timeoutInForce | .merge | .store | .counts | .timestamp => s

/-- R188: the words of one frame, all written within one event. -/
def writeWords (s : State) : List (Option WinWord × Word) → State
  | [] => s
  | (some x, w) :: rest => writeWords (writeWord s x w) rest
  | (none, _) :: rest => writeWords s rest

/-- R188: a word of the range meets a condition. -/
def rangeHas (p : WinWord → Bool) (index : Half) (count : Byte) : Bool :=
  (rangeWords index count).any (fun w => w.any p)

/-- R188, R190: the status of a WRITE_REG frame whose payload arrived: the first check that applies decides. -/
def writeRegStatus (index : Half) (count : Byte) (s : State) : Status :=
  if !rangeInWindow index count then .badIndex
  else if rangeHas locked index count && decide (s.tsq.state = .armed) then .locked
  else if rangeHas readOnly index count then .badIndex
  else .ok

/-- R185, R188: MGP takes a WRITE_REG frame at its end; a frame whose payload did not arrive is not taken. -/
def takeWriteReg (index : Half) (count : Byte) (words : List Word) (s : State) : Status × State :=
  if payloadComplete count words then
    if writeRegStatus index count s = .ok then
      (.ok, writeWords s ((rangeWords index count).zip (words.take count.toNat)))
    else (writeRegStatus index count s, s)
  else (.aborted, s)

end Sys2Proof.Machine
end

