-- ==== Sys2Proof/Machine/Frames.lean ====
section
/-! DEFINITION. The Management Port: the serial level (FRAME_BEGIN, SCLK_RISING_EDGE), the read-type commands taken
at header completion, and the frame ends (R182 to R194). -/
namespace Sys2Proof.Machine

/-! ### Header completion of the read-type commands -/

/-- MGP with the status and the snapshot of a read-type command fixed; with a snapshot it shifts data out,
without one the frame's content is complete (log entry 13). -/
def fixRead (status : Status) (data : Option (List Byte)) (s : State) : State :=
  s.setMgp { s.mgp with
    frameStatus := some status
    snapshot := data
    frameState := if data.isSome then .dataOut else .drain }

/-- R187: READ_REG is taken. -/
def takeReadReg (index : Half) (count : Byte) (s : State) : State :=
  if readRegStatus index count = .ok then fixRead .ok (some (readRegData index count s)) s
  else fixRead .badIndex none s

/-- R191: READ_ENTRY is taken. -/
def takeReadEntry (slot : Byte) (s : State) : State :=
  if h : slot.toNat < 64 then fixRead .ok (some ((entry s ⟨slot.toNat, h⟩).words.flatMap wordBytes)) s
  else fixRead .badIndex none s

/-- R130: the status of a TRACE_READ frame, the conditions in the order of the table. -/
def traceReadStatus (count : Half) (s : State) : Status :=
  if modeOf s ≠ .ring ∧ modeOf s ≠ .stop then .wrongMode
  else if count.toNat = 0 ∨ Config.traceReadMax < count.toNat then .badIndex
  else if s.tst.records.isEmpty then .empty
  else .ok

/-- R130: how many of the oldest records fit the requested slots. -/
def snapshotCount : Nat → List Record → Nat
  | _, [] => 0
  | room, r :: rs => if r.length ≤ room then snapshotCount (room - r.length) rs + 1 else 0

/-- R192: the bytes of a TRACE_READ frame after its header: the size in slots, then the slots. -/
def traceReadData (rs : List Record) : List Byte :=
  halfBytes (BitVec.ofNat 16 (slotsOf rs)) ++ (rs.flatten).flatMap slotBytes

/-- R130, R192: TRACE_READ is taken: the snapshot of the oldest whole records is fixed. -/
def takeTraceRead (count : Half) (s : State) : State :=
  if traceReadStatus count s = .ok then
    let n := snapshotCount count.toNat s.tst.records
    fixRead .ok (some (traceReadData (s.tst.records.take n))) (s.setTst { s.tst with snapshot := some n })
  else fixRead (traceReadStatus count s) (some (traceReadData [])) s

/-! ### Bits and bytes -/

/-- R184: the header of the command in progress is complete: a read-type command is taken, a WRITE_REG goes on
to its payload, if it calls for one. -/
def headerComplete (s : State) : State :=
  match s.mgp.received with
  | [code, b1, b2, b3] =>
    if code = Command.readReg.code then takeReadReg (halfOf b1 b2) b3 s
    else s.setMgp { s.mgp with frameState := if countValid b3 then .payload else .drain }
  | [_, b1, b2] => takeTraceRead (halfOf b1 b2) s
  | [_, b1] => takeReadEntry b1 s
  | _ => s

/-- R184: byte 0 is complete: it names the command, or none. -/
def commandComplete (b : Byte) (s : State) : State :=
  match Command.ofCode b with
  | none => s.setMgp { s.mgp with received := [b], frameStatus := some .badCommand, frameState := .drain }
  | some c => s.setMgp { s.mgp with
      received := [b]
      frameState :=
        if 0 < c.headerBytes then .header else if 0 < c.payloadBytes [b] then .payload else .drain }

/-- The command in progress (R182). -/
def commandOf (received : List Byte) : Option Command := received.head?.bind Command.ofCode

/-- The header bytes of the command in progress, byte 0 included. -/
def headerLength (received : List Byte) : Nat :=
  match commandOf received with
  | some c => 1 + c.headerBytes
  | none => 1

/-- The bytes of a frame's whole content: header and payload (R185). -/
def contentLength (received : List Byte) : Nat :=
  match commandOf received with
  | some c => 1 + c.headerBytes + c.payloadBytes received
  | none => 1

/-- R182, R184, R186: a byte is complete. -/
def byteComplete (b : Byte) (s : State) : State :=
  let s1 := s.setMgp { s.mgp with bytePos := satInc s.mgp.bytePos, bitPos := 0, shift := 0 }
  match s.mgp.frameState with
  | .command => commandComplete b s1
  | .header =>
    let s2 := s1.setMgp { s1.mgp with received := s1.mgp.received ++ [b] }
    if s2.mgp.received.length = headerLength s2.mgp.received then headerComplete s2 else s2
  | .payload =>
    let s2 := s1.setMgp { s1.mgp with received := s1.mgp.received ++ [b] }
    if s2.mgp.received.length = contentLength s2.mgp.received then
      s2.setMgp { s2.mgp with frameState := .drain }
    else s2
  | .dataOut =>
    if s1.mgp.received.length + (s1.mgp.snapshot.getD []).length ≤ s1.mgp.bytePos.toNat then
      s1.setMgp { s1.mgp with frameState := .drain }
    else s1
  | .drain => s1
  | .idle => s1

/-- The bits of the current byte with one more sampled, most significant bit first (R182). -/
def shiftIn (x : Byte) (bit : Bool) : Byte := (x <<< 1) ||| (flag bit).setWidth 8

/-- R182: a rising edge of SCLK while CS_N is asserted; outside a frame it is ignored. -/
def sclkEdge (bit : Bool) (s : State) : State :=
  if s.mgp.frameState = .idle then s
  else if s.mgp.bitPos = 7 then byteComplete (shiftIn s.mgp.shift bit) s
  else s.setMgp { s.mgp with bitPos := s.mgp.bitPos + 1, shift := shiftIn s.mgp.shift bit }

/-- SCLK_RISING_EDGE. -/
def execSclkRisingEdge (bit : Bool) (s : State) : Result := whenPowered (sclkEdge bit) s

/-- R182: a frame begins: CS_N falls while MGP is IDLE. -/
def beginFrame (s : State) : State :=
  if s.mgp.frameState = .idle ∧ s.pins.cs = false then
    (s.setPins { s.pins with cs := true }).setMgp { Mgp.idle s.mgp.lastStatus with frameState := .command }
  else s

/-- FRAME_BEGIN. While PORST_N is asserted CS_N falls but no frame begins (R199). -/
def execFrameBegin (s : State) : Result :=
  .next (if s.pins.porst then s.setPins { s.pins with cs := true } else beginFrame s)

/-! ### Ends of frames -/

/-- R182, R183: CS_N rises: MGP is IDLE and the last status is the frame's. -/
def closeFrame (st : Status) (s : State) : State :=
  (s.setPins { s.pins with cs := false }).setMgp (Mgp.idle st)

/-- The bits of the current byte agree with the byte `b` that would be shifted (R182: most significant first). -/
def bitsAgree (m : Mgp) (b : Byte) : Bool := decide (m.shift = b >>> (8 - m.bitPos.toNat))

/-- What has been shifted in the open frame agrees with the content `f`, as far as it goes (log entry 6). -/
def agrees (f : List Byte) (m : Mgp) : Bool :=
  m.received.isPrefixOf f
  && (decide (m.received.length = f.length) || bitsAgree m (f.getD m.received.length 0))

/-- A frame with the content `f` can be sent from here: no frame is open, or the open one is this frame so
far. One frame at a time is open (R192). -/
def canSend (f : List Byte) (s : State) : Bool :=
  if s.mgp.frameState = .idle then !s.pins.cs else agrees f s.mgp

/-- A command taken at the end of its frame: what remains of the frame is shifted, CS_N rises, and the command is
taken, which decides the status (R183, R184; log entry 6). -/
def endFrame (f : List Byte) (take : State → Status × State) (s : State) : State :=
  if canSend f s then
    let taken := take s
    closeFrame taken.1 taken.2
  else s

/-- A read-type command: what remains of its header is shifted, and it is taken at the header's completion
(R184; log entry 6). -/
def sendHeader (f : List Byte) (take : State → State) (s : State) : State :=
  if canSend f s ∧ (s.mgp.frameState = .idle ∨ s.mgp.received.length < f.length) then
    take ((s.setPins { s.pins with cs := true }).setMgp
      { s.mgp with frameState := .header, received := f, bytePos := BitVec.ofNat 16 f.length, bitPos := 0, shift := 0 })
  else s

/-- READ_REG. -/
def execReadReg (index : Half) (count : Byte) (s : State) : Result :=
  whenPowered (sendHeader (readRegBytes index count) (takeReadReg index count)) s

/-- READ_ENTRY. -/
def execReadEntry (slot : Byte) (s : State) : Result :=
  whenPowered (sendHeader (readEntryBytes slot) (takeReadEntry slot)) s

/-- TRACE_READ. -/
def execTraceRead (count : Half) (s : State) : Result :=
  whenPowered (sendHeader (traceReadBytes count) (takeTraceRead count)) s

/-- The read-type command whose header is complete, with the status fixed for it. -/
def openRead (s : State) : Option (Command × Status) :=
  match commandOf s.mgp.received, s.mgp.frameStatus with
  | some c, some st => some (c, st)
  | _, _ => none

/-- R183, R185: CS_N rises after the header of a READ_REG or READ_ENTRY frame. -/
def endReadFrame (s : State) : State :=
  match openRead s with
  | some (.readReg, st) => closeFrame st s
  | some (.readEntry, st) => closeFrame st s
  | _ => s

/-- READ_FRAME_END. -/
def execReadFrameEnd (s : State) : Result := whenPowered endReadFrame s

/-- R131: how many of the first `n` records had all their bytes among the `bytes` shifted out. -/
def recordsShifted : Nat → Nat → List Record → Nat
  | 0, _, _ => 0
  | _, _, [] => 0
  | n + 1, bytes, r :: rs =>
    if 8 * r.length ≤ bytes then recordsShifted n (bytes - 8 * r.length) rs + 1 else 0

/-- R131, R109: TST removes `n` records at a TRACE_READ frame's end; a removal clears STOPPED, and one that
brings the fill to 0 is a store emptying. -/
def removeRead (n : Nat) (s : State) : State :=
  let s1 := s.setTst { s.tst with
    records := s.tst.records.drop n, snapshot := none,
    stopped := if n = 0 then s.tst.stopped else false }
  if n ≠ 0 ∧ fill s1 = 0 then s1.setTcu { s1.tcu with refValid := false, syncNeeded := true } else s1

/-- R131, R192: CS_N rises after `more` further bytes of a TRACE_READ frame whose header is complete. The slots
begin at byte 5. -/
def endTraceRead (more : Nat) (s : State) : State :=
  match openRead s with
  | some (.traceRead, st) =>
    let shifted := s.mgp.bytePos.toNat + more - 5
    closeFrame st (removeRead (recordsShifted (s.tst.snapshot.getD 0) shifted s.tst.records) s)
  | _ => s

/-- TRACE_READ_END. -/
def execTraceReadEnd (more : Nat) (s : State) : Result := whenPowered (endTraceRead more) s

/-- R183, R185: CS_N rises before the frame's content is complete: nothing happens but the status; a frame
without a complete bit is ignored. With no frame open the command is such a frame sent whole, and with CS_N
asserted outside a frame (R199) it is the rise alone. -/
def abortFrame (s : State) : State :=
  match s.mgp.frameState with
  | .idle => if s.pins.cs then s.setPins { s.pins with cs := false } else closeFrame .aborted s
  | .command =>
    if s.mgp.bitPos = 0 then closeFrame s.mgp.lastStatus s else closeFrame .aborted s
  | .header => closeFrame .aborted s
  | .payload => closeFrame .aborted s
  | .dataOut => s
  | .drain => s

/-- ABORTED. While PORST_N is asserted CS_N rises and nothing else happens (R199). -/
def execAborted (s : State) : Result :=
  .next (if s.pins.porst then s.setPins { s.pins with cs := false } else abortFrame s)

/-- R184: a frame whose byte 0 names no command ends. -/
def endBadCommand (code : Byte) (s : State) : State :=
  if (Command.ofCode code).isNone then endFrame [code] (fun t => (.badCommand, t)) s else s

/-- BAD_COMMAND. -/
def execBadCommand (code : Byte) (s : State) : Result := whenPowered (endBadCommand code) s

/-! ### WRITE_REG frames (R188). A frame may cover words of several blocks and then is the event of several
rows; each row's command is the whole frame. -/

/-- R188: a WRITE_REG frame is taken at its end. -/
def writeFrame (index : Half) (count : Byte) (words : List Word) (s : State) : State :=
  endFrame (writeRegBytes index count words) (takeWriteReg index count words) s

/-- CHANNEL_RECORD_WRITE (R27). -/
def execChannelRecordWrite (index : Half) (count : Byte) (words : List Word) (s : State) : Result :=
  whenPowered (writeFrame index count words) s
/-- STAGE_RECORD_WRITE (R46). -/
def execStageRecordWrite (index : Half) (count : Byte) (words : List Word) (s : State) : Result :=
  whenPowered (writeFrame index count words) s
/-- TIMEOUT_WRITE (R13). -/
def execTimeoutWrite (index : Half) (count : Byte) (words : List Word) (s : State) : Result :=
  whenPowered (writeFrame index count words) s
/-- HOLD_LIMIT_WRITE (R82). -/
def execHoldLimitWrite (index : Half) (count : Byte) (words : List Word) (s : State) : Result :=
  whenPowered (writeFrame index count words) s
/-- DIVISOR_WRITE (R157). -/
def execDivisorWrite (index : Half) (count : Byte) (words : List Word) (s : State) : Result :=
  whenPowered (writeFrame index count words) s
/-- MODE_WRITE (R128). -/
def execModeWrite (index : Half) (count : Byte) (words : List Word) (s : State) : Result :=
  whenPowered (writeFrame index count words) s
/-- CAPTURE_CONFIGURATION_WRITE (R93). -/
def execCaptureConfigurationWrite (index : Half) (count : Byte) (words : List Word) (s : State) : Result :=
  whenPowered (writeFrame index count words) s
/-- THRESHOLD_WRITE (R127). -/
def execThresholdWrite (index : Half) (count : Byte) (words : List Word) (s : State) : Result :=
  whenPowered (writeFrame index count words) s
/-- ENABLE_WRITE (R149). -/
def execEnableWrite (index : Half) (count : Byte) (words : List Word) (s : State) : Result :=
  whenPowered (writeFrame index count words) s
/-- MASK_WRITE (R143). -/
def execMaskWrite (index : Half) (count : Byte) (words : List Word) (s : State) : Result :=
  whenPowered (writeFrame index count words) s

end Sys2Proof.Machine
end

