-- ==== Sys2Proof/Machine/Actions.lean ====
section
/-! DEFINITION. The action commands of the management port (R193, R194), each taken at the end of its frame. -/
namespace Sys2Proof.Machine

/-- An action command without payload whose status is OK (R193). -/
def actionFrame (c : Command) (effect : State → State) (s : State) : State :=
  endFrame [c.code] (fun t => (.ok, effect t)) s

/-- R48: ARM is latched when the latch is empty and TSQ is not ARMED. -/
def latchArm (s : State) : Status × State :=
  if s.tsq.command.isNone ∧ s.tsq.state ≠ .armed then (.ok, s.setTsq { s.tsq with command := some .arm })
  else (.busy, s)

/-- ARM. -/
def execArm (s : State) : Result := whenPowered (endFrame [Command.arm.code] latchArm) s

/-- R48: DISARM is latched when the latch is empty. -/
def latchDisarm (s : State) : Status × State :=
  if s.tsq.command.isNone then (.ok, s.setTsq { s.tsq with command := some .disarm }) else (.busy, s)

/-- DISARM. -/
def execDisarm (s : State) : Result := whenPowered (endFrame [Command.disarm.code] latchDisarm) s

/-- RELEASE_HOLD (R79). -/
def execReleaseHold (s : State) : Result := whenPowered (actionFrame .releaseHold release) s

/-- R20: every ORPHANED slot is freed; other slots are kept. -/
def Entry.purged (e : Entry) : Entry := if e.state = .orphaned then e.freed else e

/-- R20: the purge and its count. -/
def purge (s : State) : State :=
  let s1 := mapEntries Entry.purged s
  s1.setOtt { s1.ott with purgeCount := BitVec.ofNat 7 (slotCount .orphaned s) }

/-- PURGE_ORPHANS. -/
def execPurgeOrphans (s : State) : Result := whenPowered (actionFrame .purgeOrphans purge) s

/-- START_CAPTURE (R92). -/
def execStartCapture (s : State) : Result := whenPowered (actionFrame .startCapture (setCapturing true)) s

/-- STOP_CAPTURE (R92). -/
def execStopCapture (s : State) : Result := whenPowered (actionFrame .stopCapture (setCapturing false)) s

/-- R102: the MARK record with the timestamp of the frame's end; none in the OFF mode. -/
def placeMark (value : Word) (s : State) : State := offerEvent (markRecord value s.tbs.timestamp) s

/-- MARK (R102, R194). -/
def execMark (value : Word) (s : State) : Result :=
  whenPowered (endFrame (markBytes value) (fun t => (.ok, placeMark value t))) s

/-- ACK_ALERT (R150, R194): bits 5..0 of byte 1 list the causes, bits 7 and 6 are ignored. -/
def execAckAlert (causes : Byte) (s : State) : Result :=
  whenPowered (endFrame (ackAlertBytes causes) (fun t => (.ok, acknowledge (causes.extractLsb' 0 6) t))) s

/-- ACK_ANOMALY (R144). -/
def execAckAnomaly (s : State) : Result := whenPowered (actionFrame .ackAnomaly clearSummary) s

/-- CLEAR_MATCH (R43). -/
def execClearMatch (s : State) : Result := whenPowered (actionFrame .clearMatch clearMatches) s

/-- R70: TSQ at CLEAR_WATCH; the program is kept. -/
def clearTsq (t : Tsq) : Tsq :=
  { t with
    state := .idle, stage := 0, counter0 := 0, counter1 := 0, dwellAge := 0, rqpReport := none, rspReport := none,
    xt := false, an := false, dwellExpiry := false, command := none, pointer := .rqpReport }

/-- R113, R109: TCU at CLEAR_WATCH, apart from the capture in hand. -/
def clearTcu (t : Tcu) : Tcu := { t with capturing := false, refValid := false, syncNeeded := true, lossCount := 0 }

/-- R136, R137: TST and TEG at CLEAR_WATCH; mode and threshold are kept. -/
def clearTst (t : Tst) : Tst :=
  { t with records := [], tx := none, overwrite := 0, stopped := false, snapshot := none }

/-- R195: CLEAR_WATCH in every block. A waiting report is answered FORWARD (R70), the hold ends without
HOLD_EXPIRED (R85), and the capture in hand is cancelled (R97). -/
def clearWatch (s : State) : State :=
  let s1 := clearMatches (mapEntries Entry.untraced s)
  let s2 := (((s1.setTsq (clearTsq s1.tsq)).setTcu (clearTcu s1.tcu)).setTst (clearTst s1.tst))
  let s3 := forwardResponse (forwardRequest (cancelCapture (releaseFlag s2)))
  let s4 := clearSummary s3
  s4.setAlc { s4.alc with pending := 0 }

/-- CLEAR_WATCH. -/
def execClearWatch (s : State) : Result := whenPowered (actionFrame .clearWatch clearWatch) s

end Sys2Proof.Machine
end

