-- ==== Sys2Proof/Machine/Egress.lean ====
section
/-! DEFINITION. The Trace Egress: what passes at a transfer, an LCLK instant with EGRDY asserted (R133 to R135). -/
namespace Sys2Proof.Machine

/-- R133: in a STREAM mode TEG begins records; in the others it sends only the tail (R129). -/
def streaming (s : State) : Bool := decide (modeOf s = .streamStall ∨ modeOf s = .streamDrop)

/-- R133: the first byte of the oldest record passes and it becomes the record in transmission. -/
def beginRecord (s : State) : State :=
  match s.tst.tx, s.tst.records with
  | none, r :: rs =>
    if streaming s then
      s.setTst { s.tst with records := rs, tx := some { record := r, slotPos := 0, bytePos := 1 } }
    else s
  | _, _ => s

/-- R135: the eighth byte of the current slot has passed: the slot is freed, the record ends with its last slot,
and a waiting claim may be granted (R123). -/
def freeSlot (s : State) : State :=
  match s.tst.tx with
  | some x =>
    settleRoom (s.setTst { s.tst with tx :=
      if x.slotPos + 1 < x.record.length then some { x with slotPos := x.slotPos + 1, bytePos := 0 } else none })
  | none => s

/-- R133, R135: one transfer: a byte of the record in transmission, the first byte of the oldest record, or
the idle byte, which changes nothing. -/
def transfer (s : State) : State :=
  match s.tst.tx with
  | some x =>
    if x.bytePos = 7 then freeSlot s else s.setTst { s.tst with tx := some { x with bytePos := x.bytePos + 1 } }
  | none => beginRecord s

/-- EGRESS_RECORD_BEGIN; it happens when no record is in transmission and there is one to begin. -/
def execEgressRecordBegin (s : State) : Result := whenPowered beginRecord s

/-- EGRESS_SLOT_FREED: the bytes of the current slot that are still to pass, up to its eighth (log entry 5). -/
def execEgressSlotFreed (s : State) : Result := whenPowered freeSlot s

/-- EGRESS_TRANSFER: one transfer as R133 and R135 take it. -/
def execEgressTransfer (s : State) : Result := whenPowered transfer s

end Sys2Proof.Machine
end

