-- ==== Sys2Proof/Machine/Requests.lean ====
section
/-! DEFINITION. The Request Path's commands: UPSTREAM_REQUEST_TAKE (R166, R168), HOLD_POINT_PASS (R80, R94) and
DOWNSTREAM_REQUEST_TAKE (R170). -/
namespace Sys2Proof.Machine

/-- R6: the LIVE entry that holds the request's initiator and upstream tag, if any. -/
def duplicateOf (r : Request) (s : State) : Option (Fin 64) :=
  slotNumbers.find? (fun n => decide ((entry s n).state = .live ∧ (entry s n).initiator = r.initiator
    ∧ (entry s n).tag = r.tag))

/-- R29, R41, R51: the evaluation; a request with hits places its report and waits for its verdict, one
without goes to the hold point. -/
def evaluateRequest (r : Request) (s : State) : State :=
  let hits := hitSet s.mu.channels (watchedRequest r)
  let s1 := recordHits hits s
  if hits = 0 then setTxn (some { req := r, phase := .holdPoint, hits := 0, decided := false }) s1
  else
    setTxn (some { req := r, phase := .verdictWait, hits := hits, decided := false })
      (s1.setTsq { s1.tsq with rqpReport := some hits })

/-- R166, R168: the take of a request and its checks: legality (R164), duplication (R6), evaluation (R29). The
checks are inside the take (95, UPSTREAM_REQUEST_TAKE), so the phase CHECKS is not seen between commands. -/
def takeRequest (r : Request) (s : State) : State :=
  if acceptsRequest s then
    if malformedRequest r then answerProtocol r (requestAnomaly .malformedRequest slotNone r) s
    else
      match duplicateOf r s with
      | some n => answerProtocol r (requestAnomaly .duplicateTag (slotCode n) r) s
      | none => evaluateRequest r s
  else s

/-- UPSTREAM_REQUEST_TAKE. A request that the part does not accept is refused for now and not seen by any
block (R166, R167). -/
def execUpstreamRequestTake (r : Request) (s : State) : Result := whenLinkUp (takeRequest r) s

/-- R80, R94, R169: the request at the hold point passes it; its capture decision is made unless an earlier
passage made it (R78, R90), and it goes to room wait or begins its offer. -/
def passHoldPoint (s : State) : State :=
  match s.rqp.inProcess with
  | some t =>
    if t.phase = .holdPoint ∧ s.rqp.held = false then
      let s1 := if t.decided then s else decideCapture t s
      settleRoom (setTxn (some { t with phase := .roomWait, decided := true }) s1)
    else s
  | none => s

/-- HOLD_POINT_PASS. While the hold is in effect, and for a request in another phase, nothing passes (R76). -/
def execHoldPointPass (s : State) : Result := whenLinkUp passHoldPoint s

/-- R5: the entry that an allocation leaves in a slot; traced and reservation follow from the record (R96). -/
def allocated (r : Request) (now : Word) (e : Entry) : Entry :=
  { state := .live, gen := !e.gen, tag := r.tag, initiator := r.initiator, context := r.context, cls := r.cls,
    kind := r.kind, addr := r.addr, lenM1 := r.lenM1, stamp := now, age := 0, expired := false, traced := false,
    reservation := 0 }

/-- R105: the REQUEST record of a forwarded request takes DELTA form. -/
def takesDelta (r : Request) (s : State) : Bool :=
  s.tcu.refValid && !needsSync s && decide (r.context = s.tcu.refContext) && decide (r.addr.toNat % 16 = 0)
  && deltaFits (addressDelta r.addr s.tcu.refAddr)

/-- R96, R105: the REQUEST record of a forwarded request. -/
def requestRecord (r : Request) (withData : Bool) (n : Fin 64) (s : State) : Record :=
  if takesDelta r s then
    requestDelta r withData (slotCode n) (BitVec.ofInt 18 (addressDelta r.addr s.tcu.refAddr)) s.tbs.timestamp
  else requestFull r withData false (slotCode n) s.tbs.timestamp

/-- R96: the REQUEST record of the capture in hand, and the traced flag and reservation that its outcome
gives the entry; the capture in hand ends. -/
def placeRequest (r : Request) (n : Fin 64) (s : State) : State :=
  match s.tcu.capture with
  | some c =>
    let taken := offerRecord (requestRecord r c.withData n s) (.claim c.responseReservation)
      (some (r.addr, r.context)) s
    let s1 := setCapture none taken.2
    if taken.1 then setEntry n { entry s1 n with traced := true, reservation := c.responseReservation } s1
    else s1
  | none => s

/-- R170: the take of the offered request: allocation, REQUEST record, RQP EMPTY, and RMG's report of the
released position, at which OTT makes its deferred claims (R176; log entry 11). -/
def takeDownstream (s : State) : State :=
  match s.rqp.inProcess with
  | some t =>
    match t.phase with
    | .offered n =>
      let s1 := setEntry n (allocated t.req s.tbs.timestamp (entry s n)) s
      makeClaims (setTxn none (placeRequest t.req n s1))
    | _ => s
  | none => s

/-- DOWNSTREAM_REQUEST_TAKE. With no request offered there is nothing to take (R161). -/
def execDownstreamRequestTake (s : State) : Result := whenLinkUp takeDownstream s

end Sys2Proof.Machine
end

