-- ==== Sys2Proof/Machine/Resets.lean ====
section
/-! DEFINITION. LINK_RESET and its end (R179, R180), POWER_ON_RESET and its end (R180, R199). -/
namespace Sys2Proof.Machine

/-- R179, R69, R85, R97: what a link reset does before the LINKRESET record: RQP, RSP and RMG empty, the
capture in hand and the waiting reports gone, every slot FREE, SYNC-needed set (R108). The hold, the grant pointer
and the rest of TSQ are kept. -/
def discardTraffic (s : State) : State :=
  let s1 := mapEntries Entry.freed (setTxn none s)
  let s2 := (s1.setRsp { inProcess := none }).setRmg { s1.rmg with queue := [], offer := none }
  let s3 := s2.setTsq { s2.tsq with rqpReport := none, rspReport := none }
  s3.setTcu { s3.tcu with capture := none, syncNeeded := true }

/-- R179, R25: a link reset, with the LINKRESET record of the slots that were LIVE and ORPHANED before it. -/
def linkReset (s : State) : State :=
  let s1 := (discardTraffic s).setPins { s.pins with lrst := true }
  offerEvent (linkResetRecord (slotCount .live s) (slotCount .orphaned s) s1.tbs.timestamp) s1

/-- LINK_RESET: LRST_N becomes asserted. While it stays asserted there is no new assertion (R180); while PORST_N is
asserted every block is held in its power-on state and only the pin's level is new. -/
def execLinkReset (s : State) : Result :=
  .next (if s.pins.porst then s.setPins { s.pins with lrst := true }
    else if s.pins.lrst then s else linkReset s)

/-- LINK_RESET_END: LRST_N becomes deasserted and both link ports resume (R180). -/
def execLinkResetEnd (s : State) : Result := .next (s.setPins { s.pins with lrst := false })

/-- R199, R180: PORST_N asserted: every block in its power-on state. LRST_N and CS_N are driven from outside and
keep their levels. -/
def powerOn (s : State) : State :=
  { State.reset with
    pins := { s.pins with porst := true }, choices := s.choices, pending := s.pending }

/-- POWER_ON_RESET. -/
def execPowerOnReset (s : State) : Result := .next (powerOn s)

/-- POWER_ON_RESET_END: PORST_N becomes deasserted (R160, R180, R199). -/
def execPowerOnResetEnd (s : State) : Result := .next (s.setPins { s.pins with porst := false })

end Sys2Proof.Machine
end

