-- ==== Sys2Proof/Machine/Responses.lean ====
section
/-! DEFINITION. The Response Path's and the Response Merge's commands: DOWNSTREAM_RESPONSE_TAKE (R172 to R174),
RMG_BEGIN_OFFER and UPSTREAM_RESPONSE_TAKE (R177). -/
namespace Sys2Proof.Machine

/-- R7: the outcome of the lookup. -/
inductive Lookup where
  | matched
  | late
  | unsolicited
  deriving DecidableEq, Repr

/-- R7: the classification by the slot's state and generation bit. -/
def lookup (tag : BitVec 7) (s : State) : Lookup :=
  let e := entry s (tagSlot tag)
  match e.state with
  | .live => if e.gen = tagGen tag then .matched else .unsolicited
  | .orphaned => if e.gen = tagGen tag then .late else .unsolicited
  | .free => .unsolicited

/-- R10: a late response frees its orphan. -/
def takeLate (n : Fin 64) (s : State) : State :=
  takeAnomaly (entryAnomaly .lateResponse n (entry s n)) (setEntry n (entry s n).freed s)

/-- R11: the report of an unsolicited response: initiator 0, the downstream tag in the upstream tag field,
address none. -/
def unsolicitedAnomaly (tag : BitVec 7) : Anomaly :=
  { cls := .unsolicitedResponse, slot := slotCode (tagSlot tag), initiator := 0, tag := tag.setWidth 8,
    addr := addrNone }

/-- R174: the evaluation (R30); with hits RSP places its report and waits, without it answers at once. -/
def evaluateResponse (n : Fin 64) (status : DownStatus) (data : List BeatData) (s : State) : State :=
  let hits := hitSet s.mu.channels (watchedResponse (entry s n) status data)
  let s1 := recordHits hits s
  if hits = 0 then
    answerResponse false (s1.setRsp { inProcess := some { slot := n, phase := .checks, status := status, data := data } })
  else
    (s1.setTsq { s1.tsq with rspReport := some hits }).setRsp
      { inProcess := some { slot := n, phase := .verdictWait, status := status, data := data } }

/-- R173: a matched response whose data beat count is wrong is MALFORMED_RESPONSE and goes on as FAULT without data. -/
def takeMatched (n : Fin 64) (r : Response) (s : State) : State :=
  let e := entry s n
  let s1 := s.setRsp { inProcess := some { slot := n, phase := .checks, status := r.status, data := r.beats } }
  if r.beats.length = expectedBeats e.kind e.lenM1 r.status then evaluateResponse n r.status r.beats s1
  else evaluateResponse n .fault [] (takeAnomaly (entryAnomaly .malformedResponse n e) s1)

/-- R172: the take of a response, the lookup inside it. -/
def takeResponse (r : Response) (s : State) : State :=
  if s.rsp.inProcess.isNone then
    match lookup r.tag s with
    | .matched => takeMatched (tagSlot r.tag) r s
    | .late => takeLate (tagSlot r.tag) s
    | .unsolicited => takeAnomaly (unsolicitedAnomaly r.tag) s
  else s

/-- DOWNSTREAM_RESPONSE_TAKE. While a response is in process the channel is refused for now (R172). -/
def execDownstreamResponseTake (r : Response) (s : State) : Result := whenLinkUp (takeResponse r) s

/-- R177: RSP has a response when it is in OFFERED. -/
def rspAnswer (s : State) : Option UpResponse :=
  match s.rsp.inProcess with
  | some t =>
    match t.phase with
    | .offered a => some a
    | _ => none
  | none => none

/-- R177: the source whose response is offered next. -/
def nextSource (s : State) : Option Source :=
  match (rspAnswer s).isSome, s.rmg.queue.isEmpty with
  | true, false => some s.rmg.pointer
  | true, true => some .rsp
  | false, false => some .queue
  | false, true => none

/-- R177: RMG begins an offer when none is in progress. -/
def beginUpstreamOffer (s : State) : State :=
  if s.rmg.offer.isNone then s.setRmg { s.rmg with offer := nextSource s } else s

/-- RMG_BEGIN_OFFER. -/
def execRmgBeginOffer (s : State) : Result := whenLinkUp beginUpstreamOffer s

/-- R9: the bound entry retires and RSP becomes EMPTY; the released reservation may grant a claim (R123). -/
def retire (s : State) : State :=
  match s.rsp.inProcess with
  | some t => settleRoom ((setEntry t.slot (entry s t.slot).freed s).setRsp { inProcess := none })
  | none => s

/-- R177: the interconnect takes the response offered; the pointer goes to the other source, and a freed
position is reported to OTT (R176), and goes to a deferred expiry or to an offered request (R167). -/
def takeUpstream (s : State) : State :=
  match s.rmg.offer with
  | some .rsp => retire (s.setRmg { s.rmg with pointer := .queue, offer := none })
  | some .queue =>
    claimAtReport (s.setRmg { queue := s.rmg.queue.tail, pointer := .rsp, offer := none })
  | none => s

/-- UPSTREAM_RESPONSE_TAKE. With no response offered there is nothing to take (R161). -/
def execUpstreamResponseTake (s : State) : Result := whenLinkUp takeUpstream s

end Sys2Proof.Machine
end

