-- ==== Sys2Proof/Machine/Sequencer.lean ====
section
/-! DEFINITION. The Trigger Sequencer's commands: the takes of its arbiter (R54) and the edge on XTRIG_IN (R52). -/
namespace Sys2Proof.Machine

/-- R51 to R54: the input waits in its latch. -/
def inputPending (t : Tsq) : Input → Bool
  | .rqpReport => t.rqpReport.isSome
  | .rspReport => t.rspReport.isSome
  | .xt => t.xt
  | .an => t.an
  | .dwell => t.dwellExpiry
  | .command => t.command.isSome

/-- R54: the first pending input going round the ring from the priority pointer. -/
def arbiterNext (s : State) : Option Input := (Input.ring s.tsq.pointer).find? (inputPending s.tsq)

/-- The latch of an input, emptied. -/
def clearLatch (t : Tsq) : Input → Tsq
  | .rqpReport => { t with rqpReport := none }
  | .rspReport => { t with rspReport := none }
  | .xt => { t with xt := false }
  | .an => { t with an := false }
  | .dwell => { t with dwellExpiry := false }
  | .command => { t with command := none }

/-- R54: the input leaves its latch and the pointer goes to the input that follows it. -/
def takeInput (i : Input) (s : State) : State := s.setTsq { clearLatch s.tsq i with pointer := i.next }

/-- R55: an exit that shares a source with the input is advanced by 1. -/
def advance (sources : BitVec 10) (x : Exit) (counter : BitVec 12) : BitVec 12 :=
  if x.sources &&& sources = 0 then counter else counter + 1

/-- R56: the counter has reached the exit's occurrence count. -/
def reached (x : Exit) (counter : BitVec 12) : Bool := decide (effectiveCount x.count ≤ counter.toNat)

/-- R57, R62: the new state after a transition: the target stage, or FIRED with the stage kept; counters and
dwell age 0, no pending expiry. -/
def enterTarget (target : BitVec 3) (t : Tsq) : Tsq :=
  let t1 := { t with counter0 := 0, counter1 := 0, dwellAge := 0, dwellExpiry := false }
  match targetStage target with
  | some n => { t1 with state := .armed, stage := n }
  | none => { t1 with state := .fired }

/-- R57: a transition: actions, STAGE record, new state; a transition to STOP raises FIRED (R62). -/
def transition (cause : StageCause) (target : BitVec 3) (actions : BitVec 7) (s : State) : State :=
  let s1 := deliver actions s
  let s2 := offerEvent
    (stageRecord (stageFrom s.tsq.stage) (stageTo target) cause actions s1.tbs.timestamp) s1
  raiseIf (targetStage target).isNone .fired (s2.setTsq (enterTarget target s2.tsq))

/-- The stage in force. -/
def currentStage (s : State) : Stage := s.tsq.stages[s.tsq.stage]

/-- R55, R56, R59 to R61: an input with these sources is counted, and a transition taken if an exit reaches its
count, exit 0 first. The answer says whether the verdict on a report is FENCE. -/
def countInput (sources : BitVec 10) (s : State) : Bool × State :=
  match s.tsq.state with
  | .armed =>
    let st := currentStage s
    let c0 := advance sources st.exit0 s.tsq.counter0
    let c1 := advance sources st.exit1 s.tsq.counter1
    if reached st.exit0 c0 then
      (Action.fence st.exit0.actions, transition .exit0 st.exit0.target st.exit0.actions s)
    else if reached st.exit1 c1 then
      (Action.fence st.exit1.actions, transition .exit1 st.exit1.target st.exit1.actions s)
    else (false, s.setTsq { s.tsq with counter0 := c0, counter1 := c1 })
  | .idle => (false, s)
  | .fired => (false, s)

/-- R55, R59, R86: the take of RQP's report and the verdict RQP acts on. -/
def takeRqpReport (s : State) : State :=
  let counted := countInput (reportSources (s.tsq.rqpReport.getD 0)) (takeInput .rqpReport s)
  if counted.1 then fenceRequest counted.2 else forwardRequest counted.2

/-- R55, R59, R88: the take of RSP's report and the verdict RSP acts on. -/
def takeRspReport (s : State) : State :=
  let counted := countInput (reportSources (s.tsq.rspReport.getD 0)) (takeInput .rspReport s)
  answerResponse counted.1 counted.2

/-- R54, R55: the arbiter takes a report when a report is next in line. -/
def takeReport (s : State) : State :=
  match arbiterNext s with
  | some .rqpReport => takeRqpReport s
  | some .rspReport => takeRspReport s
  | _ => s

/-- TAKE_REPORT. -/
def execTakeReport (s : State) : Result := whenPowered takeReport s

/-- R55, R61: the arbiter takes the XT input when it is next in line. -/
def takeXt (s : State) : State :=
  if arbiterNext s = some .xt then (countInput xtSources (takeInput .xt s)).2 else s

/-- TAKE_XT_INPUT. -/
def execTakeXtInput (s : State) : Result := whenPowered takeXt s

/-- R53, R55, R61: the arbiter takes the AN input when it is next in line. -/
def takeAn (s : State) : State :=
  if arbiterNext s = some .an then (countInput anSources (takeInput .an s)).2 else s

/-- TAKE_AN_INPUT. -/
def execTakeAnInput (s : State) : Result := whenPowered takeAn s

/-- R64: the arbiter takes the dwell expiry when it is next in line: the transition to the dwell target. In
IDLE and FIRED an expiry does not arise (3.2). -/
def takeDwell (s : State) : State :=
  if arbiterNext s = some .dwell then
    let s1 := takeInput .dwell s
    if s.tsq.state = .armed then
      transition .dwell (currentStage s).dwellTarget (currentStage s).dwellActions s1
    else s1
  else s

/-- DWELL_EXPIRY. -/
def execDwellExpiry (s : State) : Result := whenPowered takeDwell s

/-- R49: TSQ takes ARM. -/
def takeArmCommand (s : State) : State :=
  if arbiterNext s = some .command ∧ s.tsq.command = some .arm then
    let s1 := takeInput .command s
    let s2 := s1.setTsq { s1.tsq with
      state := .armed, stage := 0, counter0 := 0, counter1 := 0, dwellAge := 0, xt := false, an := false,
      dwellExpiry := false }
    offerEvent (stageRecord stageFromNone (stageFrom 0) .arm 0 s2.tbs.timestamp) s2
  else s

/-- TAKE_ARM. -/
def execTakeArm (s : State) : Result := whenPowered takeArmCommand s

/-- R50: TSQ takes DISARM; from ARMED or FIRED it asks for a STAGE record. -/
def takeDisarmCommand (s : State) : State :=
  if arbiterNext s = some .command ∧ s.tsq.command = some .disarm then
    let s1 := takeInput .command s
    let s2 := s1.setTsq { s1.tsq with
      state := .idle, counter0 := 0, counter1 := 0, dwellAge := 0, dwellExpiry := false }
    match s.tsq.state with
    | .idle => s2
    | .armed => offerEvent (stageRecord (stageFrom s.tsq.stage) stageToIdle .disarm 0 s2.tbs.timestamp) s2
    | .fired => offerEvent (stageRecord stageFromFired stageToIdle .disarm 0 s2.tbs.timestamp) s2
  else s

/-- TAKE_DISARM. -/
def execTakeDisarm (s : State) : Result := whenPowered takeDisarmCommand s

/-- R52: a rising edge on XTRIG_IN sets the XT latch or merges into it. -/
def latchXt (s : State) : State := s.setTsq { s.tsq with xt := true }

/-- XTRIG_IN_EDGE. -/
def execXtrigInEdge (s : State) : Result := whenPowered latchXt s

end Sys2Proof.Machine
end

