-- ==== Sys2Proof/Machine/Time.lean ====
section
/-! DEFINITION. The Timebase and its consumers: REFCLK_RISING_EDGE and TICK (R154 to R156), and the ticks named by
their outcome in one consumer (R15, R16, R63, R73, R81). -/
namespace Sys2Proof.Machine

/-- R12: the age of a LIVE slot increases; ORPHANED and FREE slots keep theirs. -/
def Entry.aged (e : Entry) : Entry := if e.state = .live then { e with age := satInc e.age } else e

/-- R12, R14: OTT takes a tick: ageing, then the comparison under the policy in force. -/
def ottTick (s : State) : State :=
  let s1 := mapEntries Entry.aged s
  match s1.ott.policy with
  | .report => slotNumbers.foldl (fun t n => expireReport n t) s1
  | .abandon => makeClaims s1

/-- R81: RQP takes a tick: the hold age, and the end of the hold at its limit. -/
def rqpTick (s : State) : State :=
  if s.rqp.held then
    let s1 := s.setRqp { s.rqp with holdAge := satInc s.rqp.holdAge }
    if s1.rqp.holdLimit ≠ 0 ∧ s1.rqp.holdLimit.toNat ≤ s1.rqp.holdAge.toNat then
      settleRoom (raise .holdExpired (releaseFlag s1))
    else s1
  else s

/-- R63: TSQ takes a tick: the dwell age, and the expiry latch at the limit. -/
def tsqTick (s : State) : State :=
  let limit := (s.tsq.stages[s.tsq.stage]).dwellLimit
  if s.tsq.state = .armed ∧ limit ≠ 0 ∧ s.tsq.dwellExpiry = false then
    s.setTsq { s.tsq with
      dwellAge := s.tsq.dwellAge + 1, dwellExpiry := decide (s.tsq.dwellAge + 1 = limit) }
  else s

/-- R73: the XTRIG_OUT driver takes a tick: the pulse ends at its second. -/
def pulseTick (s : State) : State :=
  match s.pulse with
  | .low => s
  | .driving n => s.setPulse (if n = 0 then .driving 1 else .low)

/-- R154 to R156: a tick: the prescale count starts anew, the timestamp advances, and every consumer takes the
tick; their takes reach different state. R156 makes each consumer's take an event of its own, between two of which
another block's event may fall; that TBS's tick and all of them are one step is the model's choice (log entry 19). -/
def tickEvent (s : State) : State :=
  pulseTick (tsqTick (rqpTick (ottTick
    (s.setTbs { s.tbs with prescale := 0, timestamp := s.tbs.timestamp + 1 }))))

/-- R154: TBS takes a rising edge of REFCLK. -/
def refclkEdge (s : State) : State :=
  if s.tbs.prescale.toNat + 1 = effectiveDivisor s.tbs.divisor then tickEvent s
  else s.setTbs { s.tbs with prescale := s.tbs.prescale + 1 }

/-- REFCLK_RISING_EDGE: the edge as R154 takes it; at the edge that brings the count to the divisor that is a tick. -/
def execRefclkRisingEdge (s : State) : Result := whenPowered refclkEdge s

/-- TICK: "the prescale count reaches the divisor": the edges that are still missing and the tick that the last
of them produces (log entry 3). -/
def execTick (s : State) : Result := whenPowered tickEvent s

/-- A tick named by its outcome: the tick, if it has that outcome; otherwise the named step does not happen
(log entry 4). -/
def tickWhen (outcome : State → State → Bool) (s : State) : State :=
  if outcome s (tickEvent s) then tickEvent s else s

/-- R15: at the tick slot `n` takes its expiry under REPORT. -/
def expiresReport (n : Fin 64) (s t : State) : Bool := !(entry s n).expired && (entry t n).expired

/-- EXPIRY_UNDER_REPORT. -/
def execExpiryUnderReport (n : Fin 64) (s : State) : Result := whenPowered (tickWhen (expiresReport n)) s

/-- R16: at the tick slot `n`'s claim succeeds. -/
def expiresAbandon (n : Fin 64) (s t : State) : Bool :=
  decide ((entry s n).state = .live ∧ (entry t n).state = .orphaned)

/-- EXPIRY_UNDER_ABANDON at a tick; the claims made when a position frees are inside the command that frees it
(R17; 95, DEFERRED_CLAIM). -/
def execExpiryUnderAbandon (n : Fin 64) (s : State) : Result := whenPowered (tickWhen (expiresAbandon n)) s

/-- R81: at the tick the hold reaches its limit. -/
def holdExpires (s t : State) : Bool := s.rqp.held && !t.rqp.held

/-- HOLD_LIMIT_EXPIRY. -/
def execHoldLimitExpiry (s : State) : Result := whenPowered (tickWhen holdExpires) s

/-- R63: at the tick the dwell age reaches the limit. -/
def dwellReached (s t : State) : Bool := !s.tsq.dwellExpiry && t.tsq.dwellExpiry

/-- DWELL_LIMIT_REACHED. -/
def execDwellLimitReached (s : State) : Result := whenPowered (tickWhen dwellReached) s

/-- R73: the tick is the second of the pulse. -/
def pulseEnds (s t : State) : Bool := decide (s.pulse ≠ .low ∧ t.pulse = .low)

/-- PULSE_END. -/
def execPulseEnd (s : State) : Result := whenPowered (tickWhen pulseEnds) s

end Sys2Proof.Machine
end

