-- ==== Sys2Proof/Machine/Dispatch.lean ====
section
/-! DEFINITION. What each command does: one arm per constructor of `Instr`, in the table's order. -/
namespace Sys2Proof.Machine

def exec (i : Instr) (s : State) : Host.Outcome State Fault Refusal :=
  match i with
  | .upstreamRequestTake r => Sys2Proof.Machine.execUpstreamRequestTake r s
  | .takeReport => Sys2Proof.Machine.execTakeReport s
  | .holdPointPass => Sys2Proof.Machine.execHoldPointPass s
  | .downstreamRequestTake => Sys2Proof.Machine.execDownstreamRequestTake s
  | .downstreamResponseTake r => Sys2Proof.Machine.execDownstreamResponseTake r s
  | .rmgBeginOffer => Sys2Proof.Machine.execRmgBeginOffer s
  | .upstreamResponseTake => Sys2Proof.Machine.execUpstreamResponseTake s
  | .takeXtInput => Sys2Proof.Machine.execTakeXtInput s
  | .takeAnInput => Sys2Proof.Machine.execTakeAnInput s
  | .dwellExpiry => Sys2Proof.Machine.execDwellExpiry s
  | .takeArm => Sys2Proof.Machine.execTakeArm s
  | .takeDisarm => Sys2Proof.Machine.execTakeDisarm s
  | .xtrigInEdge => Sys2Proof.Machine.execXtrigInEdge s
  | .tick => Sys2Proof.Machine.execTick s
  | .expiryUnderReport slot => Sys2Proof.Machine.execExpiryUnderReport slot s
  | .expiryUnderAbandon slot => Sys2Proof.Machine.execExpiryUnderAbandon slot s
  | .holdLimitExpiry => Sys2Proof.Machine.execHoldLimitExpiry s
  | .dwellLimitReached => Sys2Proof.Machine.execDwellLimitReached s
  | .pulseEnd => Sys2Proof.Machine.execPulseEnd s
  | .egressRecordBegin => Sys2Proof.Machine.execEgressRecordBegin s
  | .egressSlotFreed => Sys2Proof.Machine.execEgressSlotFreed s
  | .linkReset => Sys2Proof.Machine.execLinkReset s
  | .linkResetEnd => Sys2Proof.Machine.execLinkResetEnd s
  | .powerOnReset => Sys2Proof.Machine.execPowerOnReset s
  | .aborted => Sys2Proof.Machine.execAborted s
  | .badCommand code => Sys2Proof.Machine.execBadCommand code s
  | .readReg index count => Sys2Proof.Machine.execReadReg index count s
  | .readEntry slot => Sys2Proof.Machine.execReadEntry slot s
  | .traceRead count => Sys2Proof.Machine.execTraceRead count s
  | .traceReadEnd bytes => Sys2Proof.Machine.execTraceReadEnd bytes s
  | .channelRecordWrite index count words => Sys2Proof.Machine.execChannelRecordWrite index count words s
  | .stageRecordWrite index count words => Sys2Proof.Machine.execStageRecordWrite index count words s
  | .timeoutWrite index count words => Sys2Proof.Machine.execTimeoutWrite index count words s
  | .holdLimitWrite index count words => Sys2Proof.Machine.execHoldLimitWrite index count words s
  | .divisorWrite index count words => Sys2Proof.Machine.execDivisorWrite index count words s
  | .modeWrite index count words => Sys2Proof.Machine.execModeWrite index count words s
  | .captureConfigurationWrite index count words => Sys2Proof.Machine.execCaptureConfigurationWrite index count words s
  | .thresholdWrite index count words => Sys2Proof.Machine.execThresholdWrite index count words s
  | .enableWrite index count words => Sys2Proof.Machine.execEnableWrite index count words s
  | .maskWrite index count words => Sys2Proof.Machine.execMaskWrite index count words s
  | .arm => Sys2Proof.Machine.execArm s
  | .disarm => Sys2Proof.Machine.execDisarm s
  | .releaseHold => Sys2Proof.Machine.execReleaseHold s
  | .purgeOrphans => Sys2Proof.Machine.execPurgeOrphans s
  | .startCapture => Sys2Proof.Machine.execStartCapture s
  | .stopCapture => Sys2Proof.Machine.execStopCapture s
  | .mark value => Sys2Proof.Machine.execMark value s
  | .ackAlert causes => Sys2Proof.Machine.execAckAlert causes s
  | .ackAnomaly => Sys2Proof.Machine.execAckAnomaly s
  | .clearMatch => Sys2Proof.Machine.execClearMatch s
  | .clearWatch => Sys2Proof.Machine.execClearWatch s
  | .refclkRisingEdge => Sys2Proof.Machine.execRefclkRisingEdge s
  | .egressTransfer => Sys2Proof.Machine.execEgressTransfer s
  | .frameBegin => Sys2Proof.Machine.execFrameBegin s
  | .sclkRisingEdge mosi => Sys2Proof.Machine.execSclkRisingEdge mosi s
  | .readFrameEnd => Sys2Proof.Machine.execReadFrameEnd s
  | .powerOnResetEnd => Sys2Proof.Machine.execPowerOnResetEnd s

end Sys2Proof.Machine
end

