-- ==== Sys2Proof/Machine/Outputs.lean ====
section
/-! DEFINITION. The outputs of the part as functions of its state: the link channels (R161, R166, R172), ALERT
(Flags.lean, R148), XTRIG_OUT (R73), MISO (R182 to R184) and the egress port (R133, R134). -/
namespace Sys2Proof.Machine

/-- R166: the part is ready on the upstream request channel. -/
def upstreamRequestReady (s : State) : Bool := linkUp s && acceptsRequest s

/-- R172: the part is ready on the downstream response channel. -/
def downstreamResponseReady (s : State) : Bool := linkUp s && s.rsp.inProcess.isNone

/-- R4, R162: the request offered downstream and the downstream tag in place of its upstream tag, the tag of the
selected slot as it will be after allocation. Every other field is the upstream request's. -/
def downstreamOffer (s : State) : Option (BitVec 7 × Request) :=
  match s.rqp.inProcess with
  | some t =>
    match t.phase with
    | .offered n => some (downTag n (!(entry s n).gen), t.req)
    | _ => none
  | none => none

/-- R177: the response offered upstream. -/
def upstreamOffer (s : State) : Option UpResponse :=
  match s.rmg.offer with
  | some .rsp => rspAnswer s
  | some .queue => s.rmg.queue.head?
  | none => none

/-- R73: the level on XTRIG_OUT. -/
def xtrigOut (s : State) : Bool := decide (s.pulse ≠ .low)

/-- R182 to R186: the byte being shifted out at the current byte position; `none` while MISO is not driven. The manual
leaves MISO undriven while CS_N is deasserted (R182) and while PORST_N is asserted (R199). With CS_N asserted and no frame
open (CS_N was already low when PORST_N was deasserted) it says only that no frame begins; that MISO is undriven then
too is the model's choice (log entry 17). -/
def misoByte (s : State) : Option Byte :=
  match s.mgp.frameState with
  | .idle => none
  | .command => some s.mgp.lastStatus.code
  | .header => some 0
  | .payload => some 0
  | .dataOut => some ((s.mgp.snapshot.getD []).getD (s.mgp.bytePos.toNat - s.mgp.received.length) 0)
  | .drain => some 0

/-- R182: the bit on MISO, most significant first. The manual changes it after each falling edge of SCLK, for which the
table has no row: one SCLK_RISING_EDGE stands for the rising edge and the falling edge after it, so from that step on
the next bit is shown. That is the model's choice (log entry 18); the same holds of `misoByte` at a byte's last bit. -/
def misoBit (s : State) : Option Bool := (misoByte s).map (fun b => b.getLsbD (7 - s.mgp.bitPos.toNat))

/-- Byte `k` of a slot as the egress port sends it (R134). -/
def slotByte (x : Slot64) (k : BitVec 3) : Byte := (slotBytes x).getD k.toNat 0

/-- R133, R134: the byte offered on EGRESS and the level of FRAME with it. -/
def egressOffer (s : State) : Byte × Bool :=
  match s.tst.tx, s.tst.records with
  | some x, _ => (slotByte (x.record.getD x.slotPos 0) x.bytePos, decide (x.slotPos = 0 ∧ x.bytePos = 0))
  | none, r :: _ => if streaming s then (slotByte (r.headD 0) 0, true) else (0, true)
  | none, [] => (0, true)

end Sys2Proof.Machine
end

