-- ==== Sys2Proof/Safety.lean ====
section
/-! DEFINITION. What the statements are made of: the conditions under which a port answers, the invariants that the
manual states of the part, and the responses the part owes (R171). -/
namespace Sys2Proof.Machine

/-! ### Conditions -/

/-- R199: PORST_N is deasserted. -/
def Powered (s : State) : Prop := s.pins.porst = false

/-- R161, R180: both link ports are up. -/
def LinksUp (s : State) : Prop := s.pins.porst = false ∧ s.pins.lrst = false

/-- Power is up and no management frame is open: CS_N is deasserted and MGP is IDLE (R182). -/
def BetweenFrames (s : State) : Prop :=
  s.pins.porst = false ∧ s.pins.cs = false ∧ s.mgp.frameState = .idle

/-- R166: the conditions under which RQP takes an offered request. -/
def Accepting (s : State) : Prop :=
  LinksUp s ∧ s.rqp.inProcess = none ∧ s.rqp.held = false ∧ (∃ n, (entry s n).state = .free)
    ∧ s.rmg.queue.length < Config.queuePositions

/-- R164: none of the four conditions that make a request MALFORMED holds. -/
def Legal (r : Request) : Prop :=
  (beatsOf r.lenM1 = 1 ∨ r.addr.toNat % 16 = 0)
  ∧ base16 r.addr / 4096 = (base16 r.addr + 16 * beatsOf r.lenM1 - 1) / 4096
  ∧ (r.kind = .write → r.beats.length = beatsOf r.lenM1)
  ∧ (r.kind = .read → r.beats = [])

/-- R6: no LIVE entry holds the request's initiator and upstream tag. -/
def PairFree (r : Request) (s : State) : Prop :=
  ∀ n : Fin 64, (entry s n).state = .live → ¬ ((entry s n).initiator = r.initiator ∧ (entry s n).tag = r.tag)

/-- R40: channel `n` matches the transaction. -/
def Matches (s : State) (t : Watched) (n : Fin 8) : Prop := channelMatches s.mu.channels[n] t = true

/-- R7: the response names the LIVE entry of slot `n` with its generation, and RSP is EMPTY. -/
def MatchedAt (n : Fin 64) (r : Response) (s : State) : Prop :=
  LinksUp s ∧ s.rsp.inProcess = none ∧ r.tag = downTag n (entry s n).gen ∧ (entry s n).state = .live

/-- R14: slot `n` is due at the tick after which the ages are those of `s`, in the manual's words. -/
def Due (s : State) (n : Fin 64) : Prop :=
  (entry s n).state = .live ∧ (∀ t, s.rsp.inProcess = some t → t.slot ≠ n) ∧ s.ott.timeout ≠ 0
    ∧ s.ott.timeout.toNat ≤ (entry s n).age.toNat

/-- R12, R14: slot `n` will be due at the next tick, once its age has been increased. -/
def DueAtNextTick (s : State) (n : Fin 64) : Prop :=
  (entry s n).state = .live ∧ (∀ t, s.rsp.inProcess = some t → t.slot ≠ n) ∧ s.ott.timeout ≠ 0
    ∧ s.ott.timeout.toNat ≤ (satInc (entry s n).age).toNat

/-- R4: slot `n` is the lowest-numbered FREE slot. -/
def LowestFree (s : State) (n : Fin 64) : Prop :=
  (entry s n).state = .free ∧ ∀ m : Fin 64, m < n → (entry s m).state ≠ .free

/-- R54: `i` is pending, and no input that comes before it, going round the ring from the priority pointer, is. -/
def NextInLine (s : State) (i : Input) : Prop :=
  ∃ before after : List Input, Input.ring s.tsq.pointer = before ++ i :: after ∧ inputPending s.tsq i = true
    ∧ ∀ j ∈ before, inputPending s.tsq j = false

/-- R31: byte `b` belongs to the transaction's span. -/
def InSpan (a : Addr) (lenM1 : BitVec 4) (b : Nat) : Prop := base16 a ≤ b ∧ b < base16 a + 16 * beatsOf lenM1

/-- R31: byte `b` belongs to the channel's window. -/
def InWindow (c : Channel) (b : Nat) : Prop := c.windowLow.toNat ≤ b ∧ b ≤ c.windowHigh.toNat

/-- R117 to R121: a group of `size` slots is placed without anything having to be removed: the store is not OFF,
STOP has not stopped, and the unclaimed free slots hold the group. -/
def FitsAsItIs (s : State) (size : Nat) : Prop :=
  modeOf s ≠ .off ∧ (modeOf s = .stop → s.tst.stopped = false)
    ∧ size + claim s + fill s + reserved s ≤ Config.storeSlots

/-- No request waits in ROOM_WAIT for its claim (R123). -/
def NoneWaitsForRoom (s : State) : Prop := ∀ t, s.rqp.inProcess = some t → t.phase ≠ .roomWait

/-- R94: the request is to be captured: the store is not OFF, CAPTURING is set, and with the filter CHANNELS its hit
set shares a channel with the capture set. -/
def Captured (hits : Byte) (s : State) : Prop :=
  modeOf s ≠ .off ∧ s.tcu.capturing = true ∧ (s.tcu.byChannels = false ∨ hits &&& s.tcu.captureSet ≠ 0)

/-- R167, R176: a request stands in front of the queue, the part would accept it once a position is free, and the
free value gives it the position that a taken response frees (log entry 15). -/
def RequestGoesFirst (s : State) : Prop :=
  (∃ r q, s.pending = .upstreamRequestTake r :: q) ∧ s.rqp.inProcess = none ∧ s.rqp.held = false
    ∧ (∃ n, (entry s n).state = .free) ∧ Config.requestTakesFreedPosition s.choices = true

/-! ### Results that several commands share -/

/-- R103, R104, R117: the record stands at the newest end of the store behind the LOSS and SYNC records its group
needs, nothing has left the store, no loss is pending and no SYNC is needed. -/
def RecordStored (r : Record) (s t : State) : Prop :=
  t.tst = { s.tst with records := s.tst.records ++ composeGroup r s }
    ∧ t.tcu.lossCount = 0 ∧ t.tcu.syncNeeded = false ∧ t.tcu.lastSyncHigh = s.tbs.timestamp.extractLsb' 16 16

/-- R104: a group has been dropped and counted: the store is as it was, the loss count is one higher, the next group
holds a SYNC, the reference is invalid, and the LOSS cause is pending. -/
def RecordLost (s t : State) : Prop :=
  t.tst = s.tst ∧ t.tcu.lossCount = satInc s.tcu.lossCount ∧ t.tcu.syncNeeded = true ∧ t.tcu.refValid = false
    ∧ t.alc.pending.getLsbD 3 = true

/-- R99: the beat that a RESPONSE record carries: the first of an OKAY READ, in STREAM_STALL when the entry's
reservation is 3, in the other modes with the data option FIRST_BEAT. -/
def recordedBeat (n : Fin 64) (status : DownStatus) (data : List BeatData) (s : State) : Option BeatData :=
  if status = .okay ∧ (entry s n).kind = .read
      ∧ (if modeOf s = .streamStall then (entry s n).reservation = 3 else s.tcu.firstBeat = true) then
    some (data.headD 0)
  else none

/-- R99: the RESPONSE record of the entry in slot `n`, its latency the timestamp minus the issue stamp. -/
def entryRecord (status : RecordStatus) (beat : Option BeatData) (n : Fin 64) (s : State) : Record :=
  responseRecord status (entry s n).initiator (entry s n).tag (BitVec.ofNat 7 n.val)
    (satHalf (s.tbs.timestamp - (entry s n).stamp).toNat) beat s.tbs.timestamp

/-- R122, R124: the RESPONSE record of the traced entry in slot `n`. In STREAM_STALL it comes out of the entry's
reservation and its LOSS and SYNC out of the unclaimed free slots, failing which the group is lost and the
reservation stays; in the other modes it is placed when it fits; in OFF there is none. -/
def ResponseRecordTaken (r : Record) (n : Fin 64) (s t : State) : Prop :=
  (∀ m : Fin 64, m ≠ n → entry t m = entry s m)
  ∧ (modeOf s = .off → t.tst = s.tst ∧ t.tcu = s.tcu ∧ t.ott = s.ott)
  ∧ (modeOf s = .streamStall → r.length ≤ (entry s n).reservation →
      (((composeGroup r s).flatten.length - r.length) + claim s + fill s + reserved s ≤ Config.storeSlots →
        RecordStored r s t
          ∧ entry t n = { entry s n with reservation := (entry s n).reservation - r.length })
      ∧ (r.length < (composeGroup r s).flatten.length →
        Config.storeSlots < ((composeGroup r s).flatten.length - r.length) + claim s + fill s + reserved s →
        RecordLost s t ∧ t.ott = s.ott))
  ∧ (modeOf s ≠ .streamStall → FitsAsItIs s (composeGroup r s).flatten.length → RecordStored r s t ∧ t.ott = s.ott)

/-- R98, R101, R122: a record without a reservation and, right behind it, the RESPONSE record of the traced entry in
slot `n`, both placed: the first out of the unclaimed free slots, the second in STREAM_STALL out of the reservation. -/
def RecordThenResponse (first second : Record) (n : Fin 64) (s t : State) : Prop :=
  FitsAsItIs s ((composeGroup first s).flatten.length + (if modeOf s = .streamStall then 0 else second.length)) →
  (modeOf s = .streamStall → second.length ≤ (entry s n).reservation) →
    t.tst.records = s.tst.records ++ composeGroup first s ++ [second]
    ∧ entry t n = { entry s n with
        reservation := (entry s n).reservation - (if modeOf s = .streamStall then second.length else 0) }

/-- R59, R99, R174: the response `x` in process is answered FORWARD: it is offered to RMG with the entry's upstream tag
and initiator, and a traced entry gets its RESPONSE record. -/
def ResponseForwarded (x : RspTxn) (s t : State) : Prop :=
  t.rsp.inProcess = some { x with
      phase := .offered ⟨(entry s x.slot).tag, (entry s x.slot).initiator, upStatus x.status, x.data⟩ }
  ∧ ((entry s x.slot).traced = false → t.ott = s.ott ∧ t.tst = s.tst ∧ t.tcu = s.tcu ∧ t.alc = s.alc)
  ∧ ((entry s x.slot).traced = true → ResponseRecordTaken
      (entryRecord (if x.status = .okay then .okay else .fault) (recordedBeat x.slot x.status x.data s) x.slot s)
      x.slot s t)
  ∧ t.mu = s.mu ∧ t.rqp = s.rqp ∧ t.rmg = s.rmg ∧ t.ans = s.ans ∧ t.tbs = s.tbs ∧ t.pulse = s.pulse ∧ t.mgp = s.mgp
  ∧ t.pins = s.pins

/-- R141: ANS has taken the anomaly: flag, count and first-anomaly record; TSQ's AN latch and the ANOMALY cause as
masked. In the OFF mode no record is built. -/
def AnomalyTaken (a : Anomaly) (s t : State) : Prop :=
  t.ans.flags = s.ans.flags ||| a.cls.bit
  ∧ t.ans.counts[a.cls.code] = satInc s.ans.counts[a.cls.code]
  ∧ (∀ k : Fin 6, k ≠ a.cls.code → t.ans.counts[k] = s.ans.counts[k])
  ∧ t.ans.first = some (s.ans.first.getD { anomaly := a, stamp := s.tbs.timestamp })
  ∧ t.ans.anMask = s.ans.anMask ∧ t.ans.alertMask = s.ans.alertMask
  ∧ t.tsq = { s.tsq with an := s.tsq.an || s.ans.anMask.getLsbD a.cls.code.val }
  ∧ t.alc.pending.getLsbD 1 = (s.alc.pending.getLsbD 1 || s.ans.alertMask.getLsbD a.cls.code.val)
  ∧ (modeOf s = .off → t.tst = s.tst ∧ t.tcu = s.tcu)

/-- R101, R103, R141: in a mode other than OFF the ANOMALY record is offered without a reservation, and it is stored when
its group fits. -/
def AnomalyRecorded (a : Anomaly) (s t : State) : Prop :=
  FitsAsItIs s (composeGroup (anomalyRecord a s.tbs.timestamp) s).flatten.length →
    RecordStored (anomalyRecord a s.tbs.timestamp) s t

/-- R57, R58, R62: what a transition leaves in the blocks that its actions reach, the input being taken from its
latch: held flag and hold age, CAPTURING, the pulse, and the causes SEQ and FIRED. -/
def ActionsDelivered (actions : BitVec 7) (target : BitVec 3) (s t : State) : Prop :=
  t.rqp.held = (Action.hold actions || (s.rqp.held && !Action.release actions))
  ∧ t.rqp.holdAge = (if Action.hold actions ∧ (s.rqp.held = false ∨ Action.release actions) then 0 else s.rqp.holdAge)
  ∧ t.tcu.capturing = (Action.captureOn actions || (s.tcu.capturing && !Action.captureOff actions))
  ∧ t.pulse = (if Action.pulse actions ∧ s.pulse = .low then .driving 0 else s.pulse)
  ∧ t.alc.pending.getLsbD 0 = (s.alc.pending.getLsbD 0 || Action.alert actions)
  ∧ t.alc.pending.getLsbD 5 = (s.alc.pending.getLsbD 5 || decide (4 ≤ target.toNat))
  ∧ t.alc.pending.getLsbD 1 = s.alc.pending.getLsbD 1 ∧ t.alc.pending.getLsbD 4 = s.alc.pending.getLsbD 4

/-- R76, R78, R80: what a transition's HOLD and RELEASE leave of the request in RQP: HOLD withdraws an offer to the hold
point, keeping the request's capture decision, and keeps a request in ROOM_WAIT there; RELEASE without HOLD lets one
whose claim is granted begin its offer; every other request stays as it is. That a request whose offer was withdrawn stays
at the hold point when RELEASE ends the hold, until HOLD_POINT_PASS, is the model's reading (log entry 9). -/
def RequestFollowsActions (actions : BitVec 7) (s t : State) : Prop :=
  (s.rqp.inProcess = none → t.rqp.inProcess = none)
  ∧ (∀ x n, s.rqp.inProcess = some x → x.phase = .offered n →
      t.rqp.inProcess = some (if Action.hold actions then { x with phase := .holdPoint } else x))
  ∧ (∀ x, s.rqp.inProcess = some x → (∀ n, x.phase ≠ .offered n) → x.phase ≠ .roomWait → t.rqp.inProcess = some x)
  ∧ (∀ x, s.rqp.inProcess = some x → x.phase = .roomWait → Action.hold actions = true → t.rqp.inProcess = some x)
  ∧ (∀ x c n, s.rqp.inProcess = some x → x.phase = .roomWait → Action.hold actions = false →
      Action.release actions = true → s.tcu.capture = some c → c.granted = true → LowestFree s n →
      t.rqp.inProcess = some { x with phase := .offered n })
  ∧ t.rqp.holdLimit = s.rqp.holdLimit

/-- R57, R62: TSQ after a transition to the target, with the input's latch emptied and the pointer moved as in
`taken`. -/
def afterTransition (target : BitVec 3) (taken : Tsq) : Tsq :=
  { taken with
    state := if target.toNat < 4 then .armed else .fired
    stage := if h : target.toNat < 4 then ⟨target.toNat, h⟩ else taken.stage
    counter0 := 0, counter1 := 0, dwellAge := 0, dwellExpiry := false }

/-- R55, R56, R60: an input with these sources brings exit `x` to its count: exit 0, or exit 1 where the input does not
bring exit 0 to its own. -/
def ExitReached (x : Exit) (cause : StageCause) (sources : BitVec 10) (s : State) : Prop :=
  (x = (currentStage s).exit0 ∧ cause = .exit0 ∧ x.sources &&& sources ≠ 0
    ∧ s.tsq.counter0.toNat + 1 = max 1 x.count.toNat)
  ∨ (x = (currentStage s).exit1 ∧ cause = .exit1 ∧ x.sources &&& sources ≠ 0
    ∧ s.tsq.counter1.toNat + 1 = max 1 x.count.toNat
    ∧ (if (currentStage s).exit0.sources &&& sources = 0 then s.tsq.counter0 else s.tsq.counter0 + 1).toNat
        < max 1 (currentStage s).exit0.count.toNat)

/-- R111: the "to" field of a STAGE record: S0 to S3, or 4 for STOP. -/
def stageField (target : BitVec 3) : BitVec 3 := if target.toNat < 4 then target else 4

/-- R57, R58, R62, R66: a transition by an exit or the dwell: the actions are delivered, the STAGE record names the
stage left, the target, the cause and the action set, TSQ stands in the target, and nothing else is reached. -/
def TransitionTaken (cause : StageCause) (target : BitVec 3) (actions : BitVec 7) (taken : Tsq) (s t : State) : Prop :=
  ActionsDelivered actions target s t ∧ RequestFollowsActions actions s t
  ∧ (NoneWaitsForRoom s →
      ∀ r, r = stageRecord (BitVec.ofNat 3 s.tsq.stage.val) (stageField target) cause actions s.tbs.timestamp →
        FitsAsItIs s (composeGroup r s).flatten.length → RecordStored r s t)
  ∧ t.tsq = afterTransition target taken
  ∧ t.ott = s.ott ∧ t.mu = s.mu ∧ t.rsp = s.rsp ∧ t.rmg = s.rmg ∧ t.ans = s.ans ∧ t.tbs = s.tbs
  ∧ t.mgp = s.mgp ∧ t.pins = s.pins ∧ t.alc.enable = s.alc.enable

/-- Commands taken one after the other. -/
def execAll : List Instr → State → Result
  | [], s => .next s
  | c :: cs, s =>
    match exec c s with
    | .next t => execAll cs t
    | .fault f => .fault f
    | .refused r => .refused r

/-- R182: the eight rising edges of SCLK that shift one byte in, most significant bit first. -/
def byteEdges (b : Byte) : List Instr :=
  [.sclkRisingEdge (b.getLsbD 7), .sclkRisingEdge (b.getLsbD 6), .sclkRisingEdge (b.getLsbD 5),
   .sclkRisingEdge (b.getLsbD 4), .sclkRisingEdge (b.getLsbD 3), .sclkRisingEdge (b.getLsbD 2),
   .sclkRisingEdge (b.getLsbD 1), .sclkRisingEdge (b.getLsbD 0)]

/-- R188: the rows of the table that a WRITE_REG frame with these words is. -/
def writeRows (index : Half) (count : Byte) (words : List Word) : List Instr :=
  [.channelRecordWrite index count words, .stageRecordWrite index count words, .timeoutWrite index count words,
   .holdLimitWrite index count words, .divisorWrite index count words, .modeWrite index count words,
   .captureConfigurationWrite index count words, .thresholdWrite index count words,
   .enableWrite index count words, .maskWrite index count words]

/-- R197: the bits of a read-write word that the map names. -/
def definedBits : WinWord → Word
  | .timeout => 0x1FFFF
  | .holdLimit => 0xFFFF
  | .divisor => 0xFFFF
  | .channel _ k =>
    match k.val with
    | 0 => 0x1FF
    | 1 => 0xFFFFFFFF
    | 2 => 0xFF
    | 3 => 0xFFFFFFFF
    | 4 => 0xFF
    | 5 => 0x1F1F
    | 6 => 0xFFFF
    | 7 => 0x1F1F
    | 8 => 0xFFFFFFFF
    | 9 => 0xFFFFFFFF
    | _ => 0x1F
  | .stage _ k =>
    match k.val with
    | 0 => 0x3FF
    | 1 => 0xFFF
    | 2 => 0x7F07
    | 3 => 0x3FF
    | 4 => 0xFFF
    | 5 => 0x7F07
    | 6 => 0xFFFF
    | _ => 0x7F07
  | .storeMode => 0x7
  | .captureSelection => 0x1FF
  | .dataOption => 0x1
  | .threshold => 0x1FFF
  | .alertEnable => 0x3F
  | .anomalyMasks => 0x3F3F
  | _ => 0

/-! ### Invariants -/

/-- R175: the number queued plus the number reserved by RQP never exceeds 8. -/
def QueueWithinBound (s : State) : Prop := s.rmg.queue.length + reservedPositions s ≤ Config.queuePositions

/-- R6: no two LIVE slots hold the same (initiator, upstream tag) pair. -/
def LivePairsDistinct (s : State) : Prop :=
  ∀ m n : Fin 64, (entry s m).state = .live → (entry s n).state = .live →
    (entry s m).initiator = (entry s n).initiator → (entry s m).tag = (entry s n).tag → m = n

/-- R6: a LIVE entry with the request's pair cannot appear while the request waits in RQP. -/
def RequestNotDuplicate (s : State) : Prop :=
  ∀ t, s.rqp.inProcess = some t → ∀ n : Fin 64, (entry s n).state = .live →
    ¬ ((entry s n).initiator = t.req.initiator ∧ (entry s n).tag = t.req.tag)

/-- R156: the age of a LIVE entry that is not saturated is the timestamp minus its issue stamp, modulo 2^32. -/
def AgesFollowTimestamp (s : State) : Prop :=
  ∀ n : Fin 64, (entry s n).state = .live → (entry s n).age ≠ BitVec.allOnes 16 →
    (entry s n).age.setWidth 32 = s.tbs.timestamp - (entry s n).stamp

/-- R3, R4, R8, R177: the entry of a response in process is LIVE, the selected slot is FREE, while RQP holds a
request there is a FREE slot, and an upstream offer in progress has a response to offer. -/
def PathsAgreeWithTable (s : State) : Prop :=
  (∀ t, s.rsp.inProcess = some t → (entry s t.slot).state = .live)
  ∧ (∀ t n, s.rqp.inProcess = some t → t.phase = .offered n → (entry s n).state = .free)
  ∧ (s.rqp.inProcess ≠ none → ∃ n, (entry s n).state = .free)
  ∧ (s.rmg.offer = some .rsp → rspAnswer s ≠ none)
  ∧ (s.rmg.offer = some .queue → s.rmg.queue ≠ [])

/-- R51, R165, R172: a path's report latch is occupied exactly while its transaction waits for the verdict, and
RQP's report is the hit set of its request. -/
def ReportsAgreeWithPaths (s : State) : Prop :=
  (∀ h, s.tsq.rqpReport = some h → h ≠ 0 ∧ ∃ t, s.rqp.inProcess = some t ∧ t.phase = .verdictWait ∧ t.hits = h)
  ∧ (∀ t, s.rqp.inProcess = some t → t.phase = .verdictWait → s.tsq.rqpReport = some t.hits)
  ∧ (∀ h, s.tsq.rspReport = some h → h ≠ 0 ∧ ∃ t, s.rsp.inProcess = some t ∧ t.phase = .verdictWait)
  ∧ (∀ t, s.rsp.inProcess = some t → t.phase = .verdictWait → s.tsq.rspReport ≠ none)

/-- R19, R24, R122: only a traced entry holds a reservation; an ORPHANED slot is not traced, and a FREE slot is
neither traced nor expired. -/
def TraceFieldsClear (s : State) : Prop :=
  ∀ n : Fin 64, ((entry s n).traced = false → (entry s n).reservation = 0)
    ∧ ((entry s n).state = .orphaned → (entry s n).traced = false)
    ∧ ((entry s n).state = .free → (entry s n).traced = false ∧ (entry s n).expired = false)

/-- R115, R122, R123: the fill, the reserved count and the claim fit the store together, and outside STREAM_STALL
nothing is reserved or claimed. The capture in hand is part of it: it reserves and claims in STREAM_STALL alone,
and its claim covers its response reservation. -/
def StoreWithinBound (s : State) : Prop :=
  fill s + reserved s + claim s ≤ Config.storeSlots
  ∧ (modeOf s ≠ .streamStall → reserved s = 0 ∧ claim s = 0)
  ∧ (∀ c, s.tcu.capture = some c → modeOf s ≠ .streamStall → c.responseReservation = 0 ∧ c.claimSize = 0)

/-- R47, R63: in ARMED each counter is below its exit's count and the dwell expiry is pending exactly when the
dwell age stands at a limit above 0; in IDLE and FIRED counters, dwell age and dwell expiry are 0. -/
def SequencerWithinProgram (s : State) : Prop :=
  (s.tsq.state = .armed →
    s.tsq.counter0.toNat < effectiveCount (currentStage s).exit0.count
    ∧ s.tsq.counter1.toNat < effectiveCount (currentStage s).exit1.count
    ∧ s.tsq.dwellAge.toNat ≤ (currentStage s).dwellLimit.toNat
    ∧ (s.tsq.dwellExpiry = true ↔ (currentStage s).dwellLimit ≠ 0 ∧ s.tsq.dwellAge = (currentStage s).dwellLimit))
  ∧ (s.tsq.state ≠ .armed →
    s.tsq.counter0 = 0 ∧ s.tsq.counter1 = 0 ∧ s.tsq.dwellAge = 0 ∧ s.tsq.dwellExpiry = false)

/-- R154: the prescale count is below the divisor. -/
def PrescaleBelowDivisor (s : State) : Prop := s.tbs.prescale.toNat < effectiveDivisor s.tbs.divisor

/-- R163: what the part has to send upstream is correctly formed: the queue holds PROTOCOL, FENCED and TIMEOUT
responses without data, and RSP's response carries the entry's length in beats if it is an OKAY READ and none
otherwise. -/
def ResponsesWellFormed (s : State) : Prop :=
  (∀ r ∈ s.rmg.queue, r.data = [] ∧ (r.status = .protocol ∨ r.status = .fenced ∨ r.status = .timeout))
  ∧ (∀ t, s.rsp.inProcess = some t →
      t.data.length = expectedBeats (entry s t.slot).kind (entry s t.slot).lenM1 t.status)
  ∧ (∀ t a, s.rsp.inProcess = some t → t.phase = .offered a →
      (a = upstreamAnswer (entry s t.slot) t false ∨ a = upstreamAnswer (entry s t.slot) t true))

/-- R180, R199: while PORST_N is asserted every block is in its power-on state. -/
def HeldAtPowerOn (s : State) : Prop := s.pins.porst = true → s = powerOn s

/-- R179, R180: while LRST_N is asserted RQP, RSP and RMG stay empty and every slot stays FREE. -/
def LinksQuiet (s : State) : Prop :=
  s.pins.lrst = true → s.rqp.inProcess = none ∧ s.rsp.inProcess = none ∧ s.rmg.queue = [] ∧ s.rmg.offer = none
    ∧ ∀ n, (entry s n).state = .free

/-! ### The responses the part owes (R171) -/

/-- An initiator and an upstream tag. -/
abbrev Pair := BitVec 5 × Byte

/-- The request in process of RQP, if it carries the pair. -/
def owedByRqp (p : Pair) (s : State) : Nat :=
  match s.rqp.inProcess with
  | some t => if (t.req.initiator, t.req.tag) = p then 1 else 0
  | none => 0

/-- The LIVE entries that hold the pair. -/
def owedByOtt (p : Pair) (s : State) : Nat :=
  s.ott.slots.toList.countP (fun e => decide (e.state = .live ∧ (e.initiator, e.tag) = p))

/-- The queued responses that carry the pair. -/
def owedByRmg (p : Pair) (s : State) : Nat :=
  s.rmg.queue.countP (fun r => decide ((r.initiator, r.tag) = p))

/-- R171: how many upstream responses for the pair the part still owes. -/
def owed (p : Pair) (s : State) : Nat := owedByRqp p s + owedByOtt p s + owedByRmg p s

/-- R171, R177: 1 if the response the interconnect takes from `s` carries the pair, else 0. -/
def deliveredTo (p : Pair) (s : State) : Nat :=
  match upstreamOffer s with
  | some r => if (r.initiator, r.tag) = p then 1 else 0
  | none => 0

/-- R166: 1 if the part takes this request from `s` and it carries the pair, else 0. -/
def takenFor (p : Pair) (r : Request) (s : State) : Nat :=
  if upstreamRequestReady s = true ∧ (r.initiator, r.tag) = p then 1 else 0

end Sys2Proof.Machine
end

