-- ==== Sys2Proof/Certificates/Slice0/Obligations.lean ====
section
/-! DEFINITION. The statements for the provers, from the numbered rules of spec/. OBLIGATIONS.json lists them. -/

open Sys2Proof Sys2Proof.Machine

/-! ### The step -/

/-- For every command c and state s, step of s with c at the front of its queue is exec of c on s with the
queue's rest. The queue is the model's (log entry 1). -/
def Obligations.StepRunsTheFrontCommand : Prop :=
  ∀ (c : Instr) (rest : List Instr) (s : State), s.pending = c :: rest → step s = exec c (s.setPending rest)

/-- Every command ends in a next state and leaves the queue of waiting commands alone: no fault, no refusal; and with
no command waiting a step changes nothing (the model's choice, log entry 1). -/
def Obligations.NothingStopsThePart : Prop :=
  (∀ (c : Instr) (s : State), ∃ t, exec c s = .next t ∧ t.pending = s.pending)
    ∧ ∀ s : State, s.pending = [] → step s = .next s

/-! ### Resets -/

/-- The power-on column of the reset tables (R25, R44, R71, R74, R85, R113, R137, R145, R152, R160, R181, R199):
POWER_ON_RESET from any state. Its end changes the pin's level and nothing else (R160, R180, R199), and the two lead
State.reset back to itself (that no pin is asserted there is the model's choice, log entry 7). -/
def Obligations.PowerOnResetGivesThePowerOnValues : Prop :=
  execAll [.powerOnReset, .powerOnResetEnd] State.reset = .next State.reset
  ∧ ∀ s : State, exec .powerOnResetEnd s = .next { s with pins := { s.pins with porst := false } }
    ∧ ∃ t, exec .powerOnReset s = .next t
    ∧ (∀ n : Fin 64, entry t n =
        { state := .free, gen := false, tag := 0, initiator := 0, context := 0, cls := .ordinary, kind := .read,
          addr := 0, lenM1 := 0, stamp := 0, age := 0, expired := false, traced := false, reservation := 0 })
    ∧ t.ott.timeout = 0 ∧ t.ott.policy = .report ∧ t.ott.purgeCount = 0
    ∧ (∀ n : Fin 8, t.mu.channels[n] =
        { enable := false, side := .request, kindFilter := 0, windowLow := 0, windowHigh := 0, outside := false,
          initValue := 0, initMask := 0, ctxValue := 0, ctxMask := 0, classFilter := 0, lengthMin := 0,
          lengthMax := 0, statusFilter := 0, dataFilter := false, dataValue := 0, dataMask := 0, laneSelect := 0,
          windowBound := false, matchFlag := false, hitCount := 0 })
    ∧ (∀ n : Fin 4, t.tsq.stages[n] =
        { exit0 := { sources := 0, count := 0, target := 0, actions := 0 },
          exit1 := { sources := 0, count := 0, target := 0, actions := 0 },
          dwellLimit := 0, dwellTarget := 0, dwellActions := 0 })
    ∧ t.tsq.state = .idle ∧ t.tsq.stage = 0 ∧ t.tsq.counter0 = 0 ∧ t.tsq.counter1 = 0 ∧ t.tsq.dwellAge = 0
    ∧ t.tsq.rqpReport = none ∧ t.tsq.rspReport = none ∧ t.tsq.xt = false ∧ t.tsq.an = false
    ∧ t.tsq.dwellExpiry = false ∧ t.tsq.command = none ∧ t.tsq.pointer = .rqpReport
    ∧ t.rqp = { held := false, holdAge := 0, holdLimit := 0, inProcess := none } ∧ t.rsp.inProcess = none
    ∧ t.rmg = { queue := [], pointer := .rsp, offer := none }
    ∧ t.tcu.capturing = false ∧ t.tcu.byChannels = false ∧ t.tcu.captureSet = 0 ∧ t.tcu.firstBeat = false
    ∧ t.tcu.refValid = false ∧ t.tcu.refAddr = 0 ∧ t.tcu.refContext = 0 ∧ t.tcu.lastSyncHigh = 0
    ∧ t.tcu.syncNeeded = true ∧ t.tcu.lossCount = 0 ∧ t.tcu.capture = none
    ∧ modeOf t = .off ∧ t.tst.records = [] ∧ t.tst.tx = none ∧ t.tst.overwrite = 0 ∧ t.tst.stopped = false
    ∧ t.tst.threshold = 4096 ∧ t.tst.snapshot = none ∧ fill t = 0 ∧ reserved t = 0 ∧ claim t = 0
    ∧ t.ans.flags = 0 ∧ (∀ k : Fin 6, t.ans.counts[k] = 0) ∧ t.ans.first = none ∧ t.ans.anMask = 0
    ∧ t.ans.alertMask = 0
    ∧ t.alc = { pending := 0, enable := 0 } ∧ alertLine t = false
    ∧ t.tbs = { divisor := 1000, prescale := 0, timestamp := 0 } ∧ t.pulse = .low
    ∧ t.mgp.frameState = .idle ∧ t.mgp.lastStatus = .ok ∧ t.mgp.snapshot = none ∧ misoByte t = none
    ∧ upstreamRequestReady t = false ∧ downstreamResponseReady t = false ∧ downstreamOffer t = none
    ∧ upstreamOffer t = none

/-- The link reset columns of the tables (R179, R25, R69, R85, R113): the traffic is discarded, the watch state is
kept; and the LINKRESET record with the two counts stands behind a SYNC (R108), if the store has room for it once
the reservations and the claim are released. The end of the reset changes the pin's level and nothing else (R180). -/
def Obligations.LinkResetDiscardsTheTraffic : Prop :=
  (∀ s : State, exec .linkResetEnd s = .next { s with pins := { s.pins with lrst := false } })
  ∧ ∀ s : State, LinksUp s → ∃ t, exec .linkReset s = .next t
    ∧ (∀ n : Fin 64, entry t n =
        { entry s n with state := .free, expired := false, traced := false, reservation := 0 })
    ∧ t.ott.timeout = s.ott.timeout ∧ t.ott.policy = s.ott.policy ∧ t.ott.purgeCount = s.ott.purgeCount
    ∧ t.rqp = { s.rqp with inProcess := none } ∧ t.rsp.inProcess = none
    ∧ t.rmg = { s.rmg with queue := [], offer := none }
    ∧ t.tsq = { s.tsq with rqpReport := none, rspReport := none }
    ∧ t.tcu.capture = none ∧ t.tcu.capturing = s.tcu.capturing ∧ t.tcu.byChannels = s.tcu.byChannels
    ∧ t.tcu.captureSet = s.tcu.captureSet ∧ t.tcu.firstBeat = s.tcu.firstBeat
    ∧ t.tst.mode = s.tst.mode ∧ t.tst.tx = s.tst.tx ∧ t.tst.threshold = s.tst.threshold
    ∧ t.tst.snapshot = s.tst.snapshot
    ∧ t.mu = s.mu ∧ t.ans = s.ans ∧ t.alc.enable = s.alc.enable ∧ t.tbs = s.tbs ∧ t.pulse = s.pulse
    ∧ t.mgp = s.mgp ∧ t.pins = { s.pins with lrst := true }
    ∧ upstreamRequestReady t = false ∧ downstreamResponseReady t = false ∧ downstreamOffer t = none
    ∧ upstreamOffer t = none
    ∧ (modeOf s ≠ .off → (modeOf s = .stop → s.tst.stopped = false) → s.tcu.lossCount = 0 →
      fill s + 2 ≤ Config.storeSlots →
      t.tst.records = s.tst.records
          ++ [syncRecord s.tbs.timestamp,
              linkResetRecord (slotCount .live s) (slotCount .orphaned s) s.tbs.timestamp]
      ∧ t.tcu.syncNeeded = false ∧ t.tcu.refValid = false ∧ fill t = fill s + 2)

/-! ### Requests -/

/-- R166, R168, R41: a legal request that duplicates nothing and meets no channel is taken and stands at the hold
point; nothing else changes. That its checks fall inside the one command is the model's (log entry 12). -/
def Obligations.ARequestWithoutHitsGoesToTheHoldPoint : Prop :=
  ∀ (r : Request) (s : State), Accepting s → Legal r → PairFree r s →
    (∀ n, ¬ Matches s (watchedRequest r) n) →
    exec (.upstreamRequestTake r) s =
      .next { s with rqp := { s.rqp with
        inProcess := some { req := r, phase := .holdPoint, hits := 0, decided := false } } }

/-- R29, R41, R42, R51: a request that meets channels is reported with its hit set, and each channel of the hit set
has its flag set and its count increased; nothing else changes. That evaluation and report fall inside the one take is
the model's (log entry 12). -/
def Obligations.ARequestWithHitsIsReported : Prop :=
  ∀ (r : Request) (s : State), Accepting s → Legal r → PairFree r s →
    (∃ n, Matches s (watchedRequest r) n) →
    ∃ (hits : Byte) (mu : Mu),
      (∀ n : Fin 8, hits.getLsbD n.val = true ↔ Matches s (watchedRequest r) n)
      ∧ (∀ n : Fin 8, Matches s (watchedRequest r) n → mu.channels[n] =
          { s.mu.channels[n] with matchFlag := true, hitCount := satInc (s.mu.channels[n]).hitCount })
      ∧ (∀ n : Fin 8, ¬ Matches s (watchedRequest r) n → mu.channels[n] = s.mu.channels[n])
      ∧ exec (.upstreamRequestTake r) s =
          .next { s with
            mu := mu
            tsq := { s.tsq with rqpReport := some hits }
            rqp := { s.rqp with
              inProcess := some { req := r, phase := .verdictWait, hits := hits, decided := false } } }

/-- R164, R6, R141: a malformed request, and a legal one whose pair a LIVE entry holds, are answered PROTOCOL without
data in the reserved position, with the anomaly MALFORMED_REQUEST or, naming that entry's slot, DUPLICATE_TAG; they
reach neither the table nor the channels. R101: the ANOMALY record is stored when it fits. That both checks answer inside
the one take is the model's (log entry 12). -/
def Obligations.IllegalRequestsAreAnsweredProtocol : Prop :=
  ∀ (r : Request) (a : Anomaly) (s : State), Accepting s →
    ((¬ Legal r ∧ a = ⟨.malformedRequest, 127, r.initiator, r.tag, r.addr⟩)
      ∨ (Legal r ∧ LivePairsDistinct s ∧ ∃ n : Fin 64, (entry s n).state = .live
          ∧ (entry s n).initiator = r.initiator ∧ (entry s n).tag = r.tag
          ∧ a = ⟨.duplicateTag, BitVec.ofNat 7 n.val, r.initiator, r.tag, r.addr⟩)) →
    ∃ t, exec (.upstreamRequestTake r) s = .next t
      ∧ t.rmg = { s.rmg with queue := s.rmg.queue ++ [⟨r.tag, r.initiator, .protocol, []⟩] }
      ∧ AnomalyTaken a s t ∧ AnomalyRecorded a s t
      ∧ t.rqp = s.rqp ∧ t.rsp = s.rsp ∧ t.ott = s.ott ∧ t.mu = s.mu ∧ t.tbs = s.tbs ∧ t.pulse = s.pulse
      ∧ t.mgp = s.mgp ∧ t.pins = s.pins

/-- R166, R167: while a condition of acceptance fails the request is refused for now and not seen by any block. -/
def Obligations.ARequestRefusedForNowLeavesNoTrace : Prop :=
  ∀ (r : Request) (s : State), ¬ Accepting s → exec (.upstreamRequestTake r) s = .next s

/-- R80, R94, R169: an uncaptured request passes the hold point and its downstream offer begins with the
lowest-numbered FREE slot; while the hold is in effect it stays. A request whose offer was withdrawn by HOLD stands at the
hold point too (R78) and keeps the capture decision and the claim of its first passage (R90); that its new offer begins at
the next HOLD_POINT_PASS after the hold is the model's reading of R78, R80, R165 and R169 (log entry 9). -/
def Obligations.TheHoldPointIsPassedIntoAnOffer : Prop :=
  (∀ (s : State) (t : RqpTxn) (n : Fin 64), LinksUp s → s.rqp.inProcess = some t → t.phase = .holdPoint →
    t.decided = false → LowestFree s n →
    (modeOf s = .off ∨ s.tcu.capturing = false ∨ (s.tcu.byChannels = true ∧ t.hits &&& s.tcu.captureSet = 0)) →
    (s.rqp.held = false → exec .holdPointPass s =
      .next { s with
        rqp := { s.rqp with inProcess := some { t with phase := .offered n, decided := true } }
        tcu := { s.tcu with capture := none } })
    ∧ (s.rqp.held = true → exec .holdPointPass s = .next s))
  ∧ ∀ (s : State) (t : RqpTxn) (n : Fin 64), LinksUp s → s.rqp.inProcess = some t → t.phase = .holdPoint →
    t.decided = true → LowestFree s n →
    (s.rqp.held = false → (∀ c, s.tcu.capture = some c → c.granted = true ∨ c.claimSize = 0) →
      exec .holdPointPass s =
        .next { s with rqp := { s.rqp with inProcess := some { t with phase := .offered n } } })
    ∧ (s.rqp.held = true → exec .holdPointPass s = .next s)

/-- R94, R95, R123: in STREAM_STALL a captured request asks for its claim as it passes the hold point: 7 slots with
FIRST_BEAT, 5 without. With room the claim is granted and the offer begins, otherwise the request waits in
ROOM_WAIT. In RING, STOP and STREAM_DROP a captured request asks for no claim and its offer begins at once. -/
def Obligations.ACapturedRequestClaimsRoom : Prop :=
  (∀ (s : State) (t : RqpTxn) (n : Fin 64), LinksUp s → s.rqp.inProcess = some t → t.phase = .holdPoint →
    t.decided = false → s.rqp.held = false → LowestFree s n → modeOf s = .streamStall → s.tcu.capturing = true →
    (s.tcu.byChannels = false ∨ t.hits &&& s.tcu.captureSet ≠ 0) →
    ∃ c : Capture, c.claimSize = (if s.tcu.firstBeat then 7 else 5)
      ∧ c.withData = (decide (t.req.kind = .write) && s.tcu.firstBeat)
      ∧ c.responseReservation = (if t.req.kind = .read ∧ s.tcu.firstBeat = true then 3 else 1)
      ∧ (c.claimSize + fill s + reserved s ≤ Config.storeSlots → exec .holdPointPass s =
          .next { s with
            rqp := { s.rqp with inProcess := some { t with phase := .offered n, decided := true } }
            tcu := { s.tcu with capture := some { c with granted := true } } })
      ∧ (Config.storeSlots < c.claimSize + fill s + reserved s → exec .holdPointPass s =
          .next { s with
            rqp := { s.rqp with inProcess := some { t with phase := .roomWait, decided := true } }
            tcu := { s.tcu with capture := some { c with granted := false } } }))
  ∧ ∀ (s : State) (t : RqpTxn) (n : Fin 64), LinksUp s → s.rqp.inProcess = some t → t.phase = .holdPoint →
    t.decided = false → s.rqp.held = false → LowestFree s n → modeOf s ≠ .streamStall → Captured t.hits s →
    exec .holdPointPass s =
      .next { s with
        rqp := { s.rqp with inProcess := some { t with phase := .offered n, decided := true } }
        tcu := { s.tcu with capture := some {
          withData := decide (t.req.kind = .write) && s.tcu.firstBeat, responseReservation := 0, claimSize := 0,
          granted := false } } }

/-- R4, R5, R170: the take of an offered, uncaptured request allocates the selected slot with the request's fields,
under the downstream tag that was offered, and RQP is EMPTY. Under REPORT, and under ABANDON with no slot due, nothing
else changes. R17, R176: under ABANDON the position that RQP releases lets the lowest-numbered due slot make its
deferred claim (within the same command: log entry 11). -/
def Obligations.TheDownstreamTakeAllocates : Prop :=
  ∀ (s : State) (t : RqpTxn) (n : Fin 64), LinksUp s → s.rqp.inProcess = some t → t.phase = .offered n →
    s.tcu.capture = none → ∃ u, exec .downstreamRequestTake s = .next u
      ∧ entry u n =
          { state := .live, gen := !(entry s n).gen, tag := t.req.tag, initiator := t.req.initiator,
            context := t.req.context, cls := t.req.cls, kind := t.req.kind, addr := t.req.addr, lenM1 := t.req.lenM1,
            stamp := s.tbs.timestamp, age := 0, expired := false, traced := false, reservation := 0 }
      ∧ downstreamOffer s = some (downTag n (entry u n).gen, t.req)
      ∧ u.rqp = { s.rqp with inProcess := none } ∧ u.tbs = s.tbs ∧ u.mu = s.mu
      ∧ u.ott.timeout = s.ott.timeout ∧ u.ott.policy = s.ott.policy ∧ u.ott.purgeCount = s.ott.purgeCount
      ∧ (s.ott.policy = .report ∨ (∀ m : Fin 64, m ≠ n → ¬ Due s m) → (∀ m : Fin 64, m ≠ n → entry u m = entry s m)
          ∧ u = { s with rqp := { s.rqp with inProcess := none }, ott := u.ott })
      ∧ (∀ d : Fin 64, s.ott.policy = .abandon → d ≠ n → Due s d → (∀ m : Fin 64, m < d → m ≠ n → ¬ Due s m) →
          s.rmg.queue.length < Config.queuePositions →
          (entry u d).state = .orphaned ∧ (entry u d).age = (entry s d).age
          ∧ (s.rmg.queue ++ [{ tag := (entry s d).tag, initiator := (entry s d).initiator, status := .timeout,
                               data := [] }]) <+: u.rmg.queue
          ∧ u.rmg.queue.length ≤ Config.queuePositions ∧ u.rmg.pointer = s.rmg.pointer ∧ u.rmg.offer = s.rmg.offer)

/-- R96, R123, R170: a capture in hand with a granted claim is always recorded in STREAM_STALL: its REQUEST group is
placed, and the entry is traced with the response reservation. R94, R96: in RING, STOP and STREAM_DROP the group is
offered without a claim; placed, the entry is traced without a reservation, dropped, it is untraced: in STREAM_DROP
counted, in STOP uncounted. R105: the form of the record. -/
def Obligations.AGrantedClaimHoldsTheRequestRecord : Prop :=
  (∀ (s : State) (t : RqpTxn) (n : Fin 64) (c : Capture), LinksUp s → s.ott.policy = .report →
    s.rqp.inProcess = some t → t.phase = .offered n → (entry s n).reservation = 0 → modeOf s = .streamStall →
    s.tcu.capture = some c → c.granted = true →
    c.claimSize = 2 + (if c.withData then 4 else 2) + c.responseReservation →
    fill s + reserved s + c.claimSize ≤ Config.storeSlots →
    ∃ u, exec .downstreamRequestTake s = .next u
      ∧ (entry u n).state = .live ∧ (entry u n).traced = true ∧ (entry u n).reservation = c.responseReservation
      ∧ u.tst.records = s.tst.records ++ composeGroup (requestRecord t.req c.withData n s) s
      ∧ reserved u = reserved s + c.responseReservation ∧ claim u = 0 ∧ u.tcu.capture = none
      ∧ u.tcu.lossCount = 0 ∧ u.tcu.refValid = true ∧ u.tcu.refAddr = t.req.addr
      ∧ u.tcu.refContext = t.req.context)
  ∧ (∀ (s : State) (t : RqpTxn) (n : Fin 64) (c : Capture), LinksUp s → s.ott.policy = .report →
    s.rqp.inProcess = some t → t.phase = .offered n → (entry s n).reservation = 0 → modeOf s ≠ .streamStall →
    s.tcu.capture = some c → c.claimSize = 0 → c.responseReservation = 0 →
    ∃ u, exec .downstreamRequestTake s = .next u
      ∧ (entry u n).state = .live ∧ (entry u n).reservation = 0 ∧ u.tcu.capture = none ∧ u.rqp.inProcess = none
      ∧ (FitsAsItIs s (composeGroup (requestRecord t.req c.withData n s) s).flatten.length →
          (entry u n).traced = true ∧ RecordStored (requestRecord t.req c.withData n s) s u
          ∧ u.tcu.refValid = true ∧ u.tcu.refAddr = t.req.addr ∧ u.tcu.refContext = t.req.context)
      ∧ (modeOf s = .streamDrop → Config.storeSlots <
            (composeGroup (requestRecord t.req c.withData n s) s).flatten.length + fill s + reserved s →
          (entry u n).traced = false ∧ RecordLost s u)
      ∧ (modeOf s = .stop → (s.tst.stopped = true ∨ Config.storeSlots <
            (composeGroup (requestRecord t.req c.withData n s) s).flatten.length + fill s + reserved s) →
          (entry u n).traced = false ∧ u.tst = { s.tst with stopped := true } ∧ u.tcu.lossCount = s.tcu.lossCount
          ∧ u.tcu.syncNeeded = true ∧ u.tcu.refValid = false ∧ u.alc = s.alc))
  ∧ ∀ (r : Request) (w : Bool) (n : Fin 64) (s : State) (d : Int),
    d = (r.addr.toNat / 16 : Int) - (s.tcu.refAddr.toNat / 16 : Int) →
    requestRecord r w n s =
      if s.tcu.refValid = true ∧ s.tcu.syncNeeded = false
          ∧ s.tbs.timestamp.extractLsb' 16 16 = s.tcu.lastSyncHigh
          ∧ r.context = s.tcu.refContext ∧ r.addr.toNat % 16 = 0 ∧ -131072 ≤ d ∧ d ≤ 131071 then
        requestDelta r w (BitVec.ofNat 7 n.val) (BitVec.ofInt 18 d) s.tbs.timestamp
      else requestFull r w false (BitVec.ofNat 7 n.val) s.tbs.timestamp

/-! ### Responses -/

/-- R7, R8, R30, R51, R173, R174: a response of correct form that names a LIVE entry with its generation. If it
meets no channel it is offered to RMG with the entry's upstream tag and initiator; if it meets channels, they are
flagged and counted, its report is placed, and it waits. Nothing else changes, but for the RESPONSE record of a traced
entry that is offered (R99, R122, R124). That evaluation, report and offer fall inside the one take is the model's (log
entry 12). -/
def Obligations.AMatchedResponseIsOfferedOrReported : Prop :=
  ∀ (r : Response) (n : Fin 64) (s : State), MatchedAt n r s →
    r.beats.length = expectedBeats (entry s n).kind (entry s n).lenM1 r.status →
    ((entry s n).traced = false → (∀ k, ¬ Matches s (watchedResponse (entry s n) r.status r.beats) k) →
      exec (.downstreamResponseTake r) s =
        .next { s with rsp := { inProcess := some {
          slot := n, phase := .offered ⟨(entry s n).tag, (entry s n).initiator, upStatus r.status, r.beats⟩,
          status := r.status, data := r.beats } } })
    ∧ ((entry s n).traced = true → (∀ k, ¬ Matches s (watchedResponse (entry s n) r.status r.beats) k) →
      ∃ t, exec (.downstreamResponseTake r) s = .next t
        ∧ ResponseForwarded { slot := n, phase := .checks, status := r.status, data := r.beats } s t
        ∧ t.tsq = s.tsq)
    ∧ ((∃ k, Matches s (watchedResponse (entry s n) r.status r.beats) k) →
      ∃ (hits : Byte) (mu : Mu),
        (∀ k : Fin 8, hits.getLsbD k.val = true ↔ Matches s (watchedResponse (entry s n) r.status r.beats) k)
        ∧ (∀ k : Fin 8, mu.channels[k] = if hits.getLsbD k.val then
            { s.mu.channels[k] with matchFlag := true, hitCount := satInc (s.mu.channels[k]).hitCount }
            else s.mu.channels[k])
        ∧ exec (.downstreamResponseTake r) s =
          .next { s with
            mu := mu
            tsq := { s.tsq with rspReport := some hits }
            rsp := { inProcess := some { slot := n, phase := .verdictWait, status := r.status, data := r.beats } } })

/-- R173, R30, R99: a matched response with a wrong data beat count raises MALFORMED_RESPONSE and goes on as FAULT
without data: offered if it meets no channel, reported if it meets channels. The entry stays as it is, but that a traced
one that is offered gets its RESPONSE record FAULT behind the ANOMALY record, in STREAM_STALL out of its reservation;
R101: otherwise the ANOMALY record stands alone, when it fits.
That form check, evaluation and offer fall inside the one take is the model's (log entry 12). -/
def Obligations.AMalformedResponseGoesOnAsFault : Prop :=
  ∀ (r : Response) (n : Fin 64) (s : State) (a : Anomaly), MatchedAt n r s →
    r.beats.length ≠ expectedBeats (entry s n).kind (entry s n).lenM1 r.status →
    a = { cls := .malformedResponse, slot := BitVec.ofNat 7 n.val, initiator := (entry s n).initiator,
          tag := (entry s n).tag, addr := (entry s n).addr } →
    ((∀ k, ¬ Matches s (watchedResponse (entry s n) .fault []) k) →
      ∃ t, exec (.downstreamResponseTake r) s = .next t
        ∧ t.rsp.inProcess = some
            { slot := n
              phase := .offered ⟨(entry s n).tag, (entry s n).initiator, .fault, []⟩
              status := .fault
              data := [] }
        ∧ t.mu = s.mu ∧ t.rqp = s.rqp ∧ t.rmg = s.rmg ∧ t.tbs = s.tbs ∧ t.pulse = s.pulse
        ∧ t.mgp = s.mgp ∧ t.pins = s.pins
        ∧ AnomalyTaken a s t
        ∧ ((entry s n).traced = false → t.ott = s.ott ∧ AnomalyRecorded a s t)
        ∧ ((entry s n).traced = true → RecordThenResponse (anomalyRecord a s.tbs.timestamp)
            (entryRecord .fault none n s) n s t))
    ∧ ((∃ k, Matches s (watchedResponse (entry s n) .fault []) k) →
      ∃ t hits, exec (.downstreamResponseTake r) s = .next t
        ∧ (∀ k : Fin 8, hits.getLsbD k.val = true ↔ Matches s (watchedResponse (entry s n) .fault []) k)
        ∧ (∀ k : Fin 8, t.mu.channels[k] = if hits.getLsbD k.val then
            { s.mu.channels[k] with matchFlag := true, hitCount := satInc (s.mu.channels[k]).hitCount }
            else s.mu.channels[k])
        ∧ t.tsq.rspReport = some hits
        ∧ t.rsp.inProcess = some { slot := n, phase := .verdictWait, status := .fault, data := [] }
        ∧ AnomalyTaken a s { t with tsq := { t.tsq with rspReport := s.tsq.rspReport } } ∧ AnomalyRecorded a s t
        ∧ t.ott = s.ott ∧ t.rqp = s.rqp ∧ t.rmg = s.rmg ∧ t.tbs = s.tbs ∧ t.pulse = s.pulse
        ∧ t.mgp = s.mgp ∧ t.pins = s.pins)


/-- R10, R11: a response to an orphan frees it, with LATE_RESPONSE; a response whose tag names no entry of its
generation changes no slot, with UNSOLICITED_RESPONSE. Both are consumed: RSP stays EMPTY. R101: the ANOMALY record is
stored when it fits. That lookup, anomaly and ANOMALY record fall inside the one take is the model's (log entry 12). -/
def Obligations.StrayResponsesAreConsumed : Prop :=
  ∀ (r : Response) (n : Fin 64) (s : State), LinksUp s → s.rsp.inProcess = none → tagSlot r.tag = n →
    (∀ a : Anomaly, (entry s n).state = .orphaned → (entry s n).gen = tagGen r.tag →
      a = { cls := .lateResponse, slot := BitVec.ofNat 7 n.val, initiator := (entry s n).initiator,
            tag := (entry s n).tag, addr := (entry s n).addr } →
      ∃ t, exec (.downstreamResponseTake r) s = .next t
        ∧ entry t n = { entry s n with state := .free, expired := false, traced := false, reservation := 0 }
        ∧ (∀ m : Fin 64, m ≠ n → entry t m = entry s m)
        ∧ AnomalyTaken a s t ∧ AnomalyRecorded a s t
        ∧ t.rsp = s.rsp ∧ t.mu = s.mu ∧ t.rqp = s.rqp ∧ t.rmg = s.rmg ∧ t.tbs = s.tbs)
    ∧ (∀ a : Anomaly, ((entry s n).state = .free ∨ (entry s n).gen ≠ tagGen r.tag) →
      a = { cls := .unsolicitedResponse, slot := BitVec.ofNat 7 n.val, initiator := 0, tag := r.tag.setWidth 8,
            addr := 0xFFFFFFFFFF } →
      ∃ t, exec (.downstreamResponseTake r) s = .next t
        ∧ AnomalyTaken a s t ∧ AnomalyRecorded a s t
        ∧ t.ott = s.ott ∧ t.rsp = s.rsp ∧ t.mu = s.mu ∧ t.rqp = s.rqp ∧ t.rmg = s.rmg ∧ t.tbs = s.tbs)

/-- R177: RMG begins an offer when none is in progress: the source that has a response, or the one that the grant
pointer names when both have one; an offer in progress is kept. -/
def Obligations.RmgOffersAsThePointerNames : Prop :=
  ∀ s : State, LinksUp s → ∃ offer : Option Source,
    exec .rmgBeginOffer s = .next { s with rmg := { s.rmg with offer := offer } }
    ∧ (s.rmg.offer ≠ none → offer = s.rmg.offer)
    ∧ (s.rmg.offer = none → rspAnswer s ≠ none → s.rmg.queue ≠ [] → offer = some s.rmg.pointer)
    ∧ (s.rmg.offer = none → rspAnswer s ≠ none → s.rmg.queue = [] → offer = some .rsp)
    ∧ (s.rmg.offer = none → rspAnswer s = none → s.rmg.queue ≠ [] → offer = some .queue)
    ∧ (s.rmg.offer = none → rspAnswer s = none → s.rmg.queue = [] → offer = none)

/-- R9, R17, R176, R177: at the take of RSP's response its entry retires and RSP is EMPTY, and the reservation released
may grant the claim of a request in ROOM_WAIT (R123). At the take of a queued response the oldest leaves the queue. The
pointer goes to the other source, and no offer is in progress. Under ABANDON the position freed goes to the
lowest-numbered due slot, or, if it is the only one, to an offered request, after whose take the slot stays deferred: R176
and R167 allow either order, and a free value of the model decides (log entry 15). That the entry is retired before the
claim is granted, so that its own slot may be the one selected, is the model's reading of R9 and R123 (log entry 11). -/
def Obligations.TheUpstreamTakeHasItsEffects : Prop :=
  ∀ s : State, LinksUp s →
    (∀ t, s.rmg.offer = some .rsp → s.rsp.inProcess = some t → NoneWaitsForRoom s →
      ∃ u, exec .upstreamResponseTake s = .next u
      ∧ entry u t.slot = { entry s t.slot with state := .free, expired := false, traced := false, reservation := 0 }
      ∧ (∀ m : Fin 64, m ≠ t.slot → entry u m = entry s m)
      ∧ u.ott.timeout = s.ott.timeout ∧ u.ott.policy = s.ott.policy ∧ u.ott.purgeCount = s.ott.purgeCount
      ∧ u = { s with ott := u.ott, rsp := { inProcess := none }, rmg := { s.rmg with pointer := .queue, offer := none } })
    ∧ (∀ t x c n, s.rmg.offer = some .rsp → s.rsp.inProcess = some t → s.rqp.inProcess = some x →
      x.phase = .roomWait → s.rqp.held = false → s.tcu.capture = some c → c.granted = false → 0 < c.claimSize →
      c.claimSize + fill s + (reserved s - (entry s t.slot).reservation) ≤ Config.storeSlots →
      ((entry s n).state = .free ∨ n = t.slot) →
      (∀ m : Fin 64, m < n → (entry s m).state ≠ .free ∧ m ≠ t.slot) →
      ∃ u, exec .upstreamResponseTake s = .next u
      ∧ entry u t.slot = { entry s t.slot with state := .free, expired := false, traced := false, reservation := 0 }
      ∧ (∀ m : Fin 64, m ≠ t.slot → entry u m = entry s m)
      ∧ u.ott.timeout = s.ott.timeout ∧ u.ott.policy = s.ott.policy ∧ u.ott.purgeCount = s.ott.purgeCount
      ∧ u = { s with
          ott := u.ott
          rsp := { inProcess := none }
          rmg := { s.rmg with pointer := .queue, offer := none }
          rqp := { s.rqp with inProcess := some { x with phase := .offered n } }
          tcu := { s.tcu with capture := some { c with granted := true } } })
    ∧ (∀ r rest, s.rmg.offer = some .queue → s.rmg.queue = r :: rest → (s.ott.policy = .report ∨ ∀ n, ¬ Due s n) →
      exec .upstreamResponseTake s = .next { s with rmg := { queue := rest, pointer := .rsp, offer := none } })
    ∧ (∀ r rest n, s.rmg.offer = some .queue → s.rmg.queue = r :: rest → s.ott.policy = .abandon → Due s n →
      (∀ m : Fin 64, m < n → ¬ Due s m) → rest.length + reservedPositions s < Config.queuePositions →
      ¬ RequestGoesFirst s →
      ∃ u, exec .upstreamResponseTake s = .next u
        ∧ (entry u n).state = .orphaned ∧ (entry u n).age = (entry s n).age
        ∧ (rest ++ [{ tag := (entry s n).tag, initiator := (entry s n).initiator, status := .timeout, data := [] }])
            <+: u.rmg.queue
        ∧ u.rmg.queue.length + reservedPositions u ≤ Config.queuePositions
        ∧ u.rmg.pointer = .rsp ∧ u.rmg.offer = none)
    ∧ (∀ r rest n, s.rmg.offer = some .queue → s.rmg.queue = r :: rest → s.ott.policy = .abandon → Due s n →
      rest.length + 1 = Config.queuePositions → RequestGoesFirst s →
      ∃ u, exec .upstreamResponseTake s = .next u
        ∧ u = { s with rmg := { queue := rest, pointer := .rsp, offer := none }, choices := s.choices + 1 }
        ∧ (entry u n).state = .live ∧ Due u n ∧ upstreamRequestReady u = true)
    ∧ (∀ r rest n, s.rmg.offer = some .queue → s.rmg.queue = r :: rest → s.ott.policy = .abandon → Due s n →
      (∀ m : Fin 64, m < n → ¬ Due s m) → rest.length + 1 < Config.queuePositions → RequestGoesFirst s →
      ∃ u, exec .upstreamResponseTake s = .next u
        ∧ (entry u n).state = .orphaned ∧ (entry u n).age = (entry s n).age
        ∧ (rest ++ [{ tag := (entry s n).tag, initiator := (entry s n).initiator, status := .timeout, data := [] }])
            <+: u.rmg.queue
        ∧ u.rmg.queue.length + 1 ≤ Config.queuePositions ∧ upstreamRequestReady u = true
        ∧ u.rmg.pointer = .rsp ∧ u.rmg.offer = none)

/-! ### The sequencer -/

/-- R52, R54: a rising edge on XTRIG_IN sets the XT latch, and nothing else changes; the arbiter takes an input only when
it is next in line: a take of another input does not happen (log entry 4). -/
def Obligations.InputsWaitForTheArbiter : Prop :=
  ∀ s : State, Powered s →
    exec .xtrigInEdge s = .next { s with tsq := { s.tsq with xt := true } }
    ∧ (¬ NextInLine s .rqpReport → ¬ NextInLine s .rspReport → exec .takeReport s = .next s)
    ∧ (¬ NextInLine s .xt → exec .takeXtInput s = .next s)
    ∧ (¬ NextInLine s .an → exec .takeAnInput s = .next s)
    ∧ (¬ NextInLine s .dwell → exec .dwellExpiry s = .next s)
    ∧ (¬ NextInLine s .command → exec .takeArm s = .next s ∧ exec .takeDisarm s = .next s)

/-- R61: in IDLE and in FIRED a report is answered FORWARD at once and the XT and AN inputs are taken by clearing
their latches; counters, dwell age and state stay, and nothing is recorded or delivered, but for the RESPONSE record of
a traced entry whose response goes up (R99). -/
def Obligations.OutsideArmedInputsAreAnsweredUncounted : Prop :=
  ∀ s : State, Powered s → s.tsq.state ≠ .armed →
    (∀ t, NextInLine s .rqpReport → s.rqp.inProcess = some t → t.phase = .verdictWait → exec .takeReport s =
      .next { s with
        tsq := { s.tsq with rqpReport := none, pointer := .rspReport }
        rqp := { s.rqp with inProcess := some { t with phase := .holdPoint } } })
    ∧ (∀ t, NextInLine s .rspReport → s.rsp.inProcess = some t → (entry s t.slot).traced = false →
      exec .takeReport s =
        .next { s with
          tsq := { s.tsq with rspReport := none, pointer := .xt }
          rsp := { inProcess := some { t with
            phase := .offered ⟨(entry s t.slot).tag, (entry s t.slot).initiator, upStatus t.status, t.data⟩ } } })
    ∧ (∀ t, NextInLine s .rspReport → s.rsp.inProcess = some t → (entry s t.slot).traced = true →
      ∃ u, exec .takeReport s = .next u ∧ ResponseForwarded t s u
        ∧ u.tsq = { s.tsq with rspReport := none, pointer := .xt })
    ∧ (NextInLine s .xt → exec .takeXtInput s = .next { s with tsq := { s.tsq with xt := false, pointer := .an } })
    ∧ (NextInLine s .an → exec .takeAnInput s = .next { s with tsq := { s.tsq with an := false, pointer := .dwell } })

/-- R55, R60: in ARMED an input that brings no exit to its count advances, by 1, the exits that share a source
with it, and changes nothing else; a report, of RQP or of RSP, is answered FORWARD (and the response of a traced entry
gets its RESPONSE record, R99). -/
def Obligations.InputsAdvanceTheExitCounters : Prop :=
  ∀ (s : State) (sources : BitVec 10) (c0 c1 : BitVec 12), Powered s → s.tsq.state = .armed →
    c0 = (if (currentStage s).exit0.sources &&& sources = 0 then s.tsq.counter0 else s.tsq.counter0 + 1) →
    c1 = (if (currentStage s).exit1.sources &&& sources = 0 then s.tsq.counter1 else s.tsq.counter1 + 1) →
    c0.toNat < max 1 (currentStage s).exit0.count.toNat → c1.toNat < max 1 (currentStage s).exit1.count.toNat →
    (∀ t, NextInLine s .rqpReport → sources = t.hits.setWidth 10 → s.tsq.rqpReport = some t.hits →
      s.rqp.inProcess = some t → t.phase = .verdictWait → exec .takeReport s =
        .next { s with
          tsq := { s.tsq with counter0 := c0, counter1 := c1, rqpReport := none, pointer := .rspReport }
          rqp := { s.rqp with inProcess := some { t with phase := .holdPoint } } })
    ∧ (∀ t hits, NextInLine s .rspReport → sources = hits.setWidth 10 → s.tsq.rspReport = some hits →
      s.rsp.inProcess = some t → ∃ u, exec .takeReport s = .next u ∧ ResponseForwarded t s u
        ∧ u.tsq = { s.tsq with counter0 := c0, counter1 := c1, rspReport := none, pointer := .xt })
    ∧ (NextInLine s .xt → sources = 0x100 → exec .takeXtInput s =
        .next { s with tsq := { s.tsq with counter0 := c0, counter1 := c1, xt := false, pointer := .an } })
    ∧ (NextInLine s .an → sources = 0x200 → exec .takeAnInput s =
        .next { s with tsq := { s.tsq with counter0 := c0, counter1 := c1, an := false, pointer := .dwell } })

/-- R55 to R59, R62, R66, R78: in ARMED the input that brings exit 0 to its count, or exit 1 to its own and not exit 0,
takes that exit: the actions are delivered, HOLD withdrawing an offer, the STAGE record is asked for, and the sequencer
stands in the target with counters and dwell zeroed. A report whose exit has no FENCE is then answered FORWARD. That a withdrawn
request stays at the hold point when RELEASE ends the hold, until HOLD_POINT_PASS, is the model's (log entry 9). -/
def Obligations.AnExitIsTakenAtItsCount : Prop :=
  ∀ (s : State) (x : Exit) (cause : StageCause) (sources : BitVec 10), Powered s → s.tsq.state = .armed →
    ExitReached x cause sources s →
    (NextInLine s .xt → sources = 0x100 → ∃ t, exec .takeXtInput s = .next t
      ∧ TransitionTaken cause x.target x.actions { s.tsq with xt := false, pointer := .an } s t)
    ∧ (NextInLine s .an → sources = 0x200 → ∃ t, exec .takeAnInput s = .next t
      ∧ TransitionTaken cause x.target x.actions { s.tsq with an := false, pointer := .dwell } s t)
    ∧ (∀ y, NextInLine s .rqpReport → sources = y.hits.setWidth 10 → s.tsq.rqpReport = some y.hits →
      s.rqp.inProcess = some y → y.phase = .verdictWait → Action.fence x.actions = false →
      ∃ t, exec .takeReport s = .next { t with rqp := { t.rqp with inProcess := some { y with phase := .holdPoint } } }
        ∧ TransitionTaken cause x.target x.actions { s.tsq with rqpReport := none, pointer := .rspReport } s t)
    ∧ (∀ y hits, NextInLine s .rspReport → sources = hits.setWidth 10 → s.tsq.rspReport = some hits →
      s.rsp.inProcess = some y → Action.fence x.actions = false →
      ∃ t u, exec .takeReport s = .next u ∧ ResponseForwarded y t u ∧ u.tsq = t.tsq
        ∧ TransitionTaken cause x.target x.actions { s.tsq with rspReport := none, pointer := .xt } s t)

/-- R59, R86, R88, R98, R99: a report whose take reaches an exit with FENCE in its actions. A request is answered FENCED
in the reserved position, whether or not the hold is in effect, and uses no slot; captured, it leaves its REQUEST record
in FULL form with slot none and a RESPONSE record FENCED behind the STAGE record, otherwise the STAGE record alone. A
response goes up with the entry's upstream tag and initiator, status FENCED and no data, the entry stays LIVE and
bound, and a traced one gets its RESPONSE record FENCED. That a withdrawn
request stays at the hold point when RELEASE ends the hold, until HOLD_POINT_PASS, is the model's (log entry 9). -/
def Obligations.FencedTransactionsAreAnsweredFenced : Prop :=
  ∀ (s : State) (hits : Byte) (x : Exit) (cause : StageCause) (stage : Record), Powered s → s.tsq.state = .armed →
    ExitReached x cause (hits.setWidth 10) s → Action.fence x.actions = true →
    stage = stageRecord (BitVec.ofNat 3 s.tsq.stage.val) (stageField x.target) cause x.actions s.tbs.timestamp →
    (∀ t, NextInLine s .rqpReport → s.tsq.rqpReport = some hits → s.rqp.inProcess = some t →
      ∃ u, exec .takeReport s = .next u
        ∧ u.rmg = { s.rmg with queue := s.rmg.queue ++ [⟨t.req.tag, t.req.initiator, .fenced, []⟩] }
        ∧ u.rqp.inProcess = none ∧ u.ott = s.ott ∧ u.mu = s.mu ∧ u.ans = s.ans ∧ u.rsp = s.rsp ∧ u.tbs = s.tbs
        ∧ ActionsDelivered x.actions x.target s u
        ∧ u.tsq = afterTransition x.target { s.tsq with rqpReport := none, pointer := .rspReport }
        ∧ (t.phase = .verdictWait →
            u.tcu.capturing = false ∨ (s.tcu.byChannels = true ∧ t.hits &&& s.tcu.captureSet = 0) →
            FitsAsItIs s (composeGroup stage s).flatten.length → RecordStored stage s u)
        ∧ (t.phase = .verdictWait → u.tcu.capturing = true →
            (s.tcu.byChannels = false ∨ t.hits &&& s.tcu.captureSet ≠ 0) →
            ∀ q : Record, q = requestFull t.req (decide (t.req.kind = .write) && s.tcu.firstBeat) true 127
              s.tbs.timestamp →
            FitsAsItIs s ((composeGroup stage s).flatten.length + q.length + 1) →
            u.tst.records = s.tst.records ++ composeGroup stage s ++ [q] ++
              [responseRecord .fenced t.req.initiator t.req.tag 127 0 none s.tbs.timestamp]
            ∧ u.tcu.refValid = true ∧ u.tcu.refAddr = t.req.addr ∧ u.tcu.refContext = t.req.context))
    ∧ (∀ t, NextInLine s .rspReport → s.tsq.rspReport = some hits → s.rsp.inProcess = some t →
      ∃ u, exec .takeReport s = .next u
        ∧ u.rsp.inProcess = some { t with
            phase := .offered ⟨(entry s t.slot).tag, (entry s t.slot).initiator, .fenced, []⟩ }
        ∧ u.rmg = s.rmg ∧ u.mu = s.mu ∧ u.ans = s.ans
        ∧ ActionsDelivered x.actions x.target s u ∧ RequestFollowsActions x.actions s u
        ∧ u.tsq = afterTransition x.target { s.tsq with rspReport := none, pointer := .xt }
        ∧ ((entry s t.slot).traced = false → u.ott = s.ott ∧ (NoneWaitsForRoom s →
            FitsAsItIs s (composeGroup stage s).flatten.length → RecordStored stage s u))
        ∧ ((entry s t.slot).traced = true → (entry u t.slot).state = (entry s t.slot).state
            ∧ (NoneWaitsForRoom s → RecordThenResponse stage (entryRecord .fenced none t.slot s) t.slot s u)))

/-- R64: a pending dwell expiry leads to the dwell target with the dwell action set, and asks for its STAGE record. That a withdrawn
request stays at the hold point when RELEASE ends the hold, until HOLD_POINT_PASS, is the model's (log entry 9). -/
def Obligations.ADwellExpiryLeadsToTheDwellTarget : Prop :=
  ∀ s : State, Powered s → s.tsq.state = .armed → NextInLine s .dwell →
    ∃ t, exec .dwellExpiry s = .next t
      ∧ TransitionTaken .dwell (currentStage s).dwellTarget (currentStage s).dwellActions
          { s.tsq with pointer := .command } s t

/-- R49, R50, R66: ARM taken starts the program at S0, DISARM taken stops it; each clears what the manual says, keeps
the report latches, and asks for its STAGE record: ARM's from none to S0, DISARM's from the stage it leaves, or from
FIRED, to IDLE; from IDLE there is none. R119: in RING, while a TRACE_READ snapshot of at least one record stands, a
STAGE record that does not fit is dropped and counted, and no record is removed. -/
def Obligations.ArmAndDisarmAreTaken : Prop :=
  ∀ s : State, Powered s → NextInLine s .command →
    (s.tsq.command = some .arm → ∃ t, exec .takeArm s = .next t
      ∧ t.tsq = { s.tsq with
          state := .armed, stage := 0, counter0 := 0, counter1 := 0, dwellAge := 0, xt := false, an := false,
          dwellExpiry := false, command := none, pointer := .rqpReport }
      ∧ (FitsAsItIs s (composeGroup (stageRecord 7 0 .arm 0 s.tbs.timestamp) s).flatten.length →
          RecordStored (stageRecord 7 0 .arm 0 s.tbs.timestamp) s t)
      ∧ (∀ n, modeOf s = .ring → s.tst.snapshot = some n → 0 < n →
          Config.storeSlots < (composeGroup (stageRecord 7 0 .arm 0 s.tbs.timestamp) s).flatten.length + fill s
            + reserved s → RecordLost s t)
      ∧ t.ott = s.ott ∧ t.mu = s.mu ∧ t.rqp = s.rqp ∧ t.rsp = s.rsp ∧ t.rmg = s.rmg ∧ t.ans = s.ans ∧ t.pulse = s.pulse)
    ∧ (s.tsq.command = some .disarm → ∃ t, exec .takeDisarm s = .next t
      ∧ t.tsq = { s.tsq with
          state := .idle, counter0 := 0, counter1 := 0, dwellAge := 0, dwellExpiry := false, command := none,
          pointer := .rqpReport }
      ∧ (s.tsq.state = .idle → t.tst = s.tst ∧ t.tcu = s.tcu ∧ t.alc = s.alc)
      ∧ (∀ r, s.tsq.state ≠ .idle →
          r = stageRecord (if s.tsq.state = .armed then BitVec.ofNat 3 s.tsq.stage.val else 4) 5 .disarm 0
            s.tbs.timestamp →
          FitsAsItIs s (composeGroup r s).flatten.length → RecordStored r s t)
      ∧ t.ott = s.ott ∧ t.mu = s.mu ∧ t.rqp = s.rqp ∧ t.rsp = s.rsp ∧ t.rmg = s.rmg ∧ t.ans = s.ans ∧ t.pulse = s.pulse)




/-! ### Time -/

/-- R154, R155: every edge of REFCLK taken while PORST_N is deasserted increases the count by 1; the edge that makes the
count equal to the divisor sets it to 0 and produces a tick, at which the timestamp advances by 1, 0xFFFF_FFFF being
followed by 0. Any other edge does nothing else. -/
def Obligations.RefclkEdgesMakeTicks : Prop :=
  ∀ s : State, Powered s →
    (s.tbs.prescale.toNat + 1 ≠ effectiveDivisor s.tbs.divisor →
      exec .refclkRisingEdge s = .next { s with tbs := { s.tbs with prescale := s.tbs.prescale + 1 } })
    ∧ (s.tbs.prescale.toNat + 1 = effectiveDivisor s.tbs.divisor → ∃ t, exec .refclkRisingEdge s = .next t
      ∧ t.tbs = { divisor := s.tbs.divisor, prescale := 0, timestamp := s.tbs.timestamp + 1 })

/-- R12, R63, R73, R81, R155: what a tick does in each consumer where nothing runs out: every LIVE entry ages, the hold
ages while held, the dwell age counts, a pulse goes on or ends. That all of them take the tick in one step is the model's
choice (log entry 19). TICK is the edges of REFCLK that are missing up to the divisor, of which the last produces the tick
(the model's choice, log entry 3). -/
def Obligations.ATickReachesEveryConsumer : Prop :=
  (∀ s : State, Powered s → (∀ n, ¬ DueAtNextTick s n) →
    (s.rqp.held = true → s.rqp.holdLimit ≠ 0 → (satInc s.rqp.holdAge).toNat < s.rqp.holdLimit.toNat) →
    ∃ t, exec .tick s = .next t
      ∧ (∀ n : Fin 64, entry t n =
          if (entry s n).state = .live then { entry s n with age := satInc (entry s n).age } else entry s n)
      ∧ t.ott.timeout = s.ott.timeout ∧ t.ott.policy = s.ott.policy ∧ t.ott.purgeCount = s.ott.purgeCount
      ∧ t.rqp = (if s.rqp.held then { s.rqp with holdAge := satInc s.rqp.holdAge } else s.rqp)
      ∧ t.tbs = { divisor := s.tbs.divisor, prescale := 0, timestamp := s.tbs.timestamp + 1 }
      ∧ t.pulse = (if s.pulse = .driving 0 then .driving 1 else .low)
      ∧ t.tsq = (if s.tsq.state = .armed ∧ (currentStage s).dwellLimit ≠ 0 ∧ s.tsq.dwellExpiry = false then
          { s.tsq with
            dwellAge := s.tsq.dwellAge + 1
            dwellExpiry := decide (s.tsq.dwellAge + 1 = (currentStage s).dwellLimit) }
          else s.tsq)
      ∧ t.mu = s.mu ∧ t.rsp = s.rsp ∧ t.rmg = s.rmg ∧ t.tcu = s.tcu ∧ t.tst = s.tst ∧ t.ans = s.ans ∧ t.alc = s.alc
      ∧ t.mgp = s.mgp ∧ t.pins = s.pins ∧ t.choices = s.choices ∧ t.pending = s.pending)
  ∧ ∀ s : State, Powered s → PrescaleBelowDivisor s →
    execAll (List.replicate (effectiveDivisor s.tbs.divisor - s.tbs.prescale.toNat) .refclkRisingEdge) s = exec .tick s

/-- R14, R15: at the tick at which slot `n` is due under REPORT with expired clear, expired is set, the slot stays LIVE,
a TIMEOUT is counted, and no response is synthesized. R101: the ANOMALY record, here where no other slot is marked at that
tick, is stored when it fits; that TCU takes it within the tick is the model's (log entry 12). That EXPIRY_UNDER_REPORT
is that whole tick, one step for all consumers, is the model's choice (log entries 4 and 19). -/
def Obligations.AnExpiryUnderReportMarksTheEntry : Prop :=
  ∀ (s : State) (n : Fin 64), Powered s → s.ott.policy = .report → DueAtNextTick s n → (entry s n).expired = false →
    ∃ t, exec (.expiryUnderReport n) s = .next t ∧ exec .tick s = .next t
      ∧ entry t n = { entry s n with age := satInc (entry s n).age, expired := true }
      ∧ t.ans.flags.getLsbD 5 = true ∧ (s.ans.counts[5] ≠ 255 → s.ans.counts[5].toNat < t.ans.counts[5].toNat)
      ∧ t.rmg = s.rmg
      ∧ (∀ (a : Anomaly) (s1 : State), (∀ m : Fin 64, m ≠ n → DueAtNextTick s m → (entry s m).expired = true) →
          s1 = { s with tbs := { s.tbs with timestamp := s.tbs.timestamp + 1 } } →
          a = { cls := .timeout, slot := BitVec.ofNat 7 n.val, initiator := (entry s n).initiator,
                tag := (entry s n).tag, addr := (entry s n).addr } →
          AnomalyRecorded a s1 t ∧ t.ans.counts[5] = satInc s.ans.counts[5]
          ∧ t.ans.first = some (s.ans.first.getD { anomaly := a, stamp := s.tbs.timestamp + 1 }))

/-- R16, R17: at the tick at which slot `n` is the lowest-numbered due slot under ABANDON and a position is free, its
TIMEOUT response is placed, the slot becomes ORPHANED with its fields kept, untraced, and its age stopped. R100, R101, here
where no other slot is due and there is room: a traced entry gets its RESPONSE record TIMEOUT; with expired clear the
ANOMALY record stands beside it, in either order (which one is a free value, log entry 2), or alone if the entry is not
traced. That TCU takes the ANOMALY record within the tick is the model's (log entry 12), and that EXPIRY_UNDER_ABANDON is
that whole tick, one step for all consumers, is its choice (log entries 4 and 19). -/
def Obligations.AnExpiryUnderAbandonOrphansTheEntry : Prop :=
  ∀ (s : State) (n : Fin 64), Powered s → s.ott.policy = .abandon → DueAtNextTick s n →
    (∀ m : Fin 64, m < n → ¬ DueAtNextTick s m) →
    s.rmg.queue.length + reservedPositions s < Config.queuePositions →
    ∃ t, exec (.expiryUnderAbandon n) s = .next t ∧ exec .tick s = .next t
      ∧ entry t n = { entry s n with
          state := .orphaned, age := satInc (entry s n).age, traced := false
          reservation := if (entry s n).traced then 0 else (entry s n).reservation }
      ∧ (s.rmg.queue ++ [{ tag := (entry s n).tag, initiator := (entry s n).initiator, status := .timeout,
                           data := [] }]) <+: t.rmg.queue
      ∧ t.rmg.queue.length + reservedPositions t ≤ Config.queuePositions
      ∧ ((entry s n).expired = false → t.ans.flags.getLsbD 5 = true)
      ∧ (∀ (r : Record) (s1 : State), (entry s n).traced = true → (entry s n).expired = true →
          (∀ m : Fin 64, m ≠ n → ¬ DueAtNextTick s m) → NoneWaitsForRoom s →
          s1 = { s with tbs := { s.tbs with timestamp := s.tbs.timestamp + 1 } } →
          r = responseRecord .timeout (entry s n).initiator (entry s n).tag (BitVec.ofNat 7 n.val)
            (satInc (entry s n).age) none (s.tbs.timestamp + 1) →
          (modeOf s = .streamStall → 1 ≤ (entry s n).reservation) →
          FitsAsItIs s ((composeGroup r s1).flatten.length - (if modeOf s = .streamStall then 1 else 0)) →
          t.tst.records = s.tst.records ++ composeGroup r s1)
      ∧ (∀ (a : Anomaly) (q r : Record) (s1 : State), (entry s n).expired = false →
          (∀ m : Fin 64, m ≠ n → ¬ DueAtNextTick s m) → NoneWaitsForRoom s →
          s1 = { s with tbs := { s.tbs with timestamp := s.tbs.timestamp + 1 } } →
          a = { cls := .timeout, slot := BitVec.ofNat 7 n.val, initiator := (entry s n).initiator,
                tag := (entry s n).tag, addr := (entry s n).addr } →
          q = anomalyRecord a (s.tbs.timestamp + 1) →
          r = responseRecord .timeout (entry s n).initiator (entry s n).tag (BitVec.ofNat 7 n.val)
            (satInc (entry s n).age) none (s.tbs.timestamp + 1) →
          ((entry s n).traced = false → AnomalyRecorded a s1 t)
          ∧ ((entry s n).traced = true → (modeOf s = .streamStall → 1 ≤ (entry s n).reservation) →
            FitsAsItIs s ((composeGroup q s1).flatten.length + (if modeOf s = .streamStall then 0 else 1)) →
            t.tst.records = s.tst.records ++ composeGroup q s1 ++ [r]
            ∨ t.tst.records = s.tst.records ++ composeGroup r s1 ++ [q]))

/-- R81, R63, R73: the three other ticks named by their outcome are that tick: the hold ends at its limit with
HOLD_EXPIRED, the dwell expiry latch is set at the limit, the pulse ends at its second tick. That each of them is the whole
tick, one step for all consumers, is the model's choice (log entries 4 and 19). -/
def Obligations.LimitsRunOutAtTheTick : Prop :=
  ∀ s : State, Powered s →
    (s.rqp.held = true → s.rqp.holdLimit ≠ 0 → s.rqp.holdLimit.toNat ≤ (satInc s.rqp.holdAge).toNat →
      ∃ t, exec .holdLimitExpiry s = .next t ∧ exec .tick s = .next t ∧ t.rqp.held = false
        ∧ t.rqp.holdAge = satInc s.rqp.holdAge ∧ t.rqp.holdLimit = s.rqp.holdLimit
        ∧ t.alc.pending.getLsbD 4 = true)
    ∧ (s.tsq.state = .armed → (currentStage s).dwellLimit ≠ 0 → s.tsq.dwellExpiry = false →
        s.tsq.dwellAge + 1 = (currentStage s).dwellLimit →
      ∃ t, exec .dwellLimitReached s = .next t ∧ exec .tick s = .next t ∧ t.tsq.dwellExpiry = true
        ∧ t.tsq.dwellAge = (currentStage s).dwellLimit ∧ t.tsq.state = .armed ∧ t.tsq.stage = s.tsq.stage)
    ∧ (s.pulse = .driving 1 → ∃ t, exec .pulseEnd s = .next t ∧ exec .tick s = .next t ∧ t.pulse = .low)

/-! ### Egress -/

/-- R133, R135: the three forms of a transfer: a byte of the record in transmission that ends no slot, the first byte
of the oldest record in a STREAM mode, and the idle byte. That EGRESS_RECORD_BEGIN is the step of that first byte is the
model's choice (log entry 5). -/
def Obligations.ATransferPassesOneByte : Prop :=
  ∀ s : State, Powered s →
    (∀ x, s.tst.tx = some x → x.bytePos ≠ 7 → exec .egressTransfer s =
      .next { s with tst := { s.tst with tx := some { x with bytePos := x.bytePos + 1 } } })
    ∧ (∀ r rest, s.tst.tx = none → s.tst.records = r :: rest → modeOf s = .streamStall ∨ modeOf s = .streamDrop →
      exec .egressTransfer s =
          .next { s with tst := { s.tst with records := rest, tx := some { record := r, slotPos := 0, bytePos := 1 } } }
        ∧ exec .egressRecordBegin s = exec .egressTransfer s)
    ∧ (s.tst.tx = none → (s.tst.records = [] ∨ (modeOf s ≠ .streamStall ∧ modeOf s ≠ .streamDrop)) →
      exec .egressTransfer s = .next s)

/-- R135, R123, R169: the eighth byte of a slot frees it, and the fill falls by 1; with its last slot the record in
transmission becomes none. A freed slot that brings the free slots up to the size of a waiting claim grants it, and
the request begins its offer. EGRESS_SLOT_FREED stands for the bytes up to the eighth (log entry 5). -/
def Obligations.TheEighthByteFreesTheSlot : Prop :=
  ∀ (s : State) (x : Transmission) (tst : Tst), Powered s → s.tst.tx = some x → x.slotPos < x.record.length →
    tst = { s.tst with tx :=
      if x.slotPos + 1 = x.record.length then none else some { x with slotPos := x.slotPos + 1, bytePos := 0 } } →
    ((∀ t, s.rqp.inProcess = some t → t.phase ≠ .roomWait) → ∃ u, exec .egressSlotFreed s = .next u
      ∧ u = { s with tst := tst } ∧ fill u + 1 = fill s ∧ (x.bytePos = 7 → exec .egressTransfer s = .next u))
    ∧ (∀ t c n, s.rqp.inProcess = some t → t.phase = .roomWait → s.rqp.held = false → s.tcu.capture = some c →
      c.granted = false → 0 < c.claimSize → LowestFree s n →
      c.claimSize + (fill s - 1) + reserved s ≤ Config.storeSlots →
      exec .egressSlotFreed s = .next { s with
        tst := tst
        rqp := { s.rqp with inProcess := some { t with phase := .offered n } }
        tcu := { s.tcu with capture := some { c with granted := true } } })

/-! ### The management port -/

/-- R182: CS_N falling between frames begins a frame; each rising edge of SCLK that ends no byte shifts one bit in;
outside a frame it is ignored. -/
def Obligations.FramesAreShiftedBitByBit : Prop :=
  ∀ s : State,
    (BetweenFrames s → exec .frameBegin s =
      .next { s with
        pins := { s.pins with cs := true }
        mgp := { frameState := .command, bytePos := 0, bitPos := 0, shift := 0, received := [], frameStatus := none,
                 snapshot := none, lastStatus := s.mgp.lastStatus } })
    ∧ (∀ bit, Powered s → s.mgp.frameState ≠ .idle → s.mgp.bitPos ≠ 7 → exec (.sclkRisingEdge bit) s =
      .next { s with mgp := { s.mgp with
        bitPos := s.mgp.bitPos + 1, shift := (s.mgp.shift <<< 1) ||| (BitVec.ofBool bit).setWidth 8 } })
    ∧ (∀ bit, s.mgp.frameState = .idle → exec (.sclkRisingEdge bit) s = .next s)

/-- R182, R183, R184, R186, R187: MISO is not driven between frames; throughout byte 0 it shows the last status, through
the header and the payload and once the content is complete 0x00, and after a read-type header byte k of the snapshot,
most significant bit first. R133, R134: the egress port offers the bytes of a slot from bits 63..56 on, with FRAME at the
first byte of a record, and the idle byte when there is no record to send. That MISO shows the next bit from the
SCLK_RISING_EDGE on, which stands for the falling edge after it too, is the model's choice (log entry 18). -/
def Obligations.ThePortsShowTheirBytes : Prop :=
  (∀ s : State, BetweenFrames s →
    misoByte s = none ∧ misoBit s = none ∧ ∃ t, exec .frameBegin s = .next t ∧ misoByte t = some s.mgp.lastStatus.code)
  ∧ (∀ s : State, s.mgp.frameState = .command →
      misoByte s = some s.mgp.lastStatus.code
      ∧ misoBit s = some (s.mgp.lastStatus.code.getLsbD (7 - s.mgp.bitPos.toNat)))
  ∧ (∀ s : State, s.mgp.frameState = .header ∨ s.mgp.frameState = .payload ∨ s.mgp.frameState = .drain →
      misoByte s = some 0x00 ∧ misoBit s = some false)
  ∧ (∀ (s : State) (bytes : List Byte) (k : Nat) (b : Byte), s.mgp.frameState = .dataOut →
      s.mgp.snapshot = some bytes → s.mgp.bytePos.toNat = s.mgp.received.length + k → bytes[k]? = some b →
      misoByte s = some b ∧ misoBit s = some (b.getLsbD (7 - s.mgp.bitPos.toNat)))
  ∧ (∀ (s : State) (x : Transmission) (slot : Slot64), s.tst.tx = some x → x.record[x.slotPos]? = some slot →
      (∀ i < 8, (egressOffer s).1.getLsbD i = slot.getLsbD (8 * (7 - x.bytePos.toNat) + i))
      ∧ ((egressOffer s).2 = true ↔ x.slotPos = 0 ∧ x.bytePos = 0))
  ∧ (∀ (s : State) (slot : Slot64) (r : List Slot64) (rest : List Record), s.tst.tx = none →
      s.tst.records = (slot :: r) :: rest → modeOf s = .streamStall ∨ modeOf s = .streamDrop →
      egressOffer s = (slot.extractLsb' 56 8, true))
  ∧ ∀ s : State, s.tst.tx = none → s.tst.records = [] ∨ (modeOf s ≠ .streamStall ∧ modeOf s ≠ .streamDrop) →
      egressOffer s = (0x00, true)

/-- R182, R184, R187, R191, R192: a read-type command sent bit by bit, from the falling edge of CS_N to the last bit
of its header, is the command's row (log entry 6). -/
def Obligations.ReadCommandsAreTakenAtTheirHeader : Prop :=
  ∀ s : State, BetweenFrames s →
    (∀ (index : Half) (count : Byte),
      execAll (.frameBegin :: (byteEdges 0x21 ++ byteEdges (index.extractLsb' 8 8) ++ byteEdges (index.extractLsb' 0 8)
        ++ byteEdges count)) s = exec (.readReg index count) s)
    ∧ (∀ slot : Byte,
      execAll (.frameBegin :: (byteEdges 0x23 ++ byteEdges slot)) s = exec (.readEntry slot) s)
    ∧ (∀ count : Half,
      execAll (.frameBegin :: (byteEdges 0x24 ++ byteEdges (count.extractLsb' 8 8) ++ byteEdges (count.extractLsb' 0 8)))
        s = exec (.traceRead count) s)

/-- R184, R188, R193, R194: an action command, or a WRITE_REG frame, whose bytes have been shifted in is taken at the
rise of CS_N as its row, and nothing happens before: with the bytes shifted in, only the pins and the port differ (log
entry 6). -/
def Obligations.ActionCommandsAreTakenAtTheFramesEnd : Prop :=
  ∀ s : State, BetweenFrames s →
    (∀ p ∈ [((0x31 : Byte), Instr.arm), (0x32, .disarm), (0x33, .releaseHold), (0x34, .purgeOrphans),
        (0x35, .startCapture), (0x36, .stopCapture), (0x39, .ackAnomaly), (0x3A, .clearMatch), (0x3B, .clearWatch)],
      execAll (.frameBegin :: (byteEdges p.1 ++ [p.2])) s = exec p.2 s
      ∧ ∃ m, execAll (.frameBegin :: byteEdges p.1) s = .next { s with pins := { s.pins with cs := true }, mgp := m })
    ∧ (∀ causes : Byte,
      execAll (.frameBegin :: (byteEdges 0x38 ++ byteEdges causes ++ [.ackAlert causes])) s
        = exec (.ackAlert causes) s
      ∧ ∃ m, execAll (.frameBegin :: (byteEdges 0x38 ++ byteEdges causes)) s
        = .next { s with pins := { s.pins with cs := true }, mgp := m })
    ∧ (∀ (value : Word) (bits : List Instr),
      bits = byteEdges 0x37 ++ byteEdges (value.extractLsb' 24 8) ++ byteEdges (value.extractLsb' 16 8)
        ++ byteEdges (value.extractLsb' 8 8) ++ byteEdges (value.extractLsb' 0 8) →
      execAll (.frameBegin :: (bits ++ [.mark value])) s = exec (.mark value) s
      ∧ ∃ m, execAll (.frameBegin :: bits) s = .next { s with pins := { s.pins with cs := true }, mgp := m })
    ∧ ∀ (index : Half) (count : Byte) (words : List Word) (bits : List Instr),
      1 ≤ count.toNat → count.toNat ≤ 64 → words.length = count.toNat →
      bits = byteEdges 0x22 ++ byteEdges (index.extractLsb' 8 8) ++ byteEdges (index.extractLsb' 0 8)
        ++ byteEdges count ++ (words.flatMap wordBytes).flatMap byteEdges →
      (∀ row ∈ writeRows index count words, execAll (.frameBegin :: (bits ++ [row])) s = exec row s)
      ∧ ∃ m, execAll (.frameBegin :: bits) s = .next { s with pins := { s.pins with cs := true }, mgp := m }

/-- R183, R184, R185: a frame cut short takes nothing and leaves ABORTED, a frame without a complete bit is ignored, a
code that names no command leaves BAD_COMMAND, and a read frame ends with the status fixed at its header. Nothing
but the port changes. -/
def Obligations.FrameEndsLeaveTheirStatus : Prop :=
  ∀ s : State, Powered s →
    (s.mgp.frameState = .header ∨ s.mgp.frameState = .payload ∨ (s.mgp.frameState = .command ∧ s.mgp.bitPos ≠ 0) →
      exec .aborted s = .next { s with pins := { s.pins with cs := false }, mgp := Mgp.idle .aborted })
    ∧ (s.mgp.frameState = .command → s.mgp.bitPos = 0 → exec .aborted s =
      .next { s with pins := { s.pins with cs := false }, mgp := Mgp.idle s.mgp.lastStatus })
    ∧ (∀ code : Byte, BetweenFrames s → code.toNat < 0x21 ∨ 0x24 < code.toNat ∧ code.toNat < 0x31 ∨ 0x3B < code.toNat →
      exec (.badCommand code) s = .next { s with mgp := Mgp.idle .badCommand })
    ∧ (∀ st code, s.mgp.received.head? = some code → code = 0x21 ∨ code = 0x23 → s.mgp.frameStatus = some st →
      exec .readFrameEnd s = .next { s with pins := { s.pins with cs := false }, mgp := Mgp.idle st })

/-- R187, R191, R197, R198, R24, R139: a READ_REG whose range lies in the window fixes the words as they stand, most
significant byte first, and a READ_ENTRY of a slot number 0..63 the slot's five words; otherwise the status is BAD_INDEX.
Reading changes nothing but the port. What each read-only word and each entry word shows, bit range by bit range. -/
def Obligations.ReadsShowTheState : Prop :=
  (∀ (index : Half) (count : Byte) (s : State), BetweenFrames s →
    ∃ m, exec (.readReg index count) s = .next { s with pins := { s.pins with cs := true }, mgp := m }
      ∧ m.lastStatus = s.mgp.lastStatus
      ∧ ((1 ≤ count.toNat ∧ count.toNat ≤ 64 ∧ ∀ k < count.toNat, wordAt (index.toNat + k) ≠ none) →
          m.frameStatus = some .ok ∧ m.frameState = .dataOut
          ∧ ∃ bytes, m.snapshot = some bytes ∧ bytes.length = 4 * count.toNat
            ∧ ∀ k x, k < count.toNat → wordAt (index.toNat + k) = some x →
                (bytes.drop (4 * k)).take 4 = wordBytes (readWord s x))
      ∧ (¬ (1 ≤ count.toNat ∧ count.toNat ≤ 64 ∧ ∀ k < count.toNat, wordAt (index.toNat + k) ≠ none) →
          m.frameStatus = some .badIndex ∧ m.snapshot = none))
  ∧ (∀ (slot : Byte) (s : State), BetweenFrames s →
    ∃ m, exec (.readEntry slot) s = .next { s with pins := { s.pins with cs := true }, mgp := m }
      ∧ (∀ h : slot.toNat < 64, m.frameStatus = some .ok
          ∧ m.snapshot = some ((Entry.words (entry s ⟨slot.toNat, h⟩)).flatMap wordBytes))
      ∧ (64 ≤ slot.toNat → m.frameStatus = some .badIndex ∧ m.snapshot = none))
  ∧ (∀ s : State,
    (∀ n : Fin 8, (readWord s (.channel n 11)).extractLsb' 0 16 = (s.mu.channels[n]).hitCount
      ∧ (readWord s (.channel n 11)).extractLsb' 16 16 = (BitVec.ofBool (s.mu.channels[n]).matchFlag).setWidth 16)
    ∧ readWord s .alertPending = s.alc.pending.setWidth 32
    ∧ readWord s .anomalyFlags =
        (0#23 ++ BitVec.ofBool s.ans.first.isSome ++ 0#2 ++ s.ans.flags : BitVec 32)
    ∧ readWord s .anomalyCounts0 =
        (s.ans.counts[3] ++ s.ans.counts[2] ++ s.ans.counts[1] ++ s.ans.counts[0] : BitVec 32)
    ∧ readWord s .anomalyCounts1 = (0#16 ++ s.ans.counts[5] ++ s.ans.counts[4] : BitVec 32)
    ∧ (s.ans.first = none → readWord s .firstAnomaly = 0 ∧ readWord s .firstAddressLow = 0
        ∧ readWord s .firstAddressHigh = 0 ∧ readWord s .firstTimestamp = 0)
    ∧ (∀ f, s.ans.first = some f →
        readWord s .firstAnomaly = (f.anomaly.tag ++ 0#3 ++ f.anomaly.initiator ++ 0#1 ++ f.anomaly.slot ++ 0#5
          ++ BitVec.ofNat 3 f.anomaly.cls.code.val : BitVec 32)
        ∧ readWord s .firstAddressLow = f.anomaly.addr.extractLsb' 0 32
        ∧ readWord s .firstAddressHigh = (f.anomaly.addr.extractLsb' 32 8).setWidth 32
        ∧ readWord s .firstTimestamp = f.stamp)
    ∧ readWord s .sequencer = (0#22 ++ BitVec.ofBool s.tsq.command.isSome ++ BitVec.ofBool s.tsq.dwellExpiry
        ++ BitVec.ofBool s.tsq.an ++ BitVec.ofBool s.tsq.xt ++ BitVec.ofBool s.tsq.rspReport.isSome
        ++ BitVec.ofBool s.tsq.rqpReport.isSome ++ BitVec.ofNat 2 s.tsq.stage.val
        ++ (match s.tsq.state with | .idle => 0#2 | .armed => 1#2 | .fired => 2#2) : BitVec 32)
    ∧ readWord s .exitCounters = (0#4 ++ s.tsq.counter1 ++ 0#4 ++ s.tsq.counter0 : BitVec 32)
    ∧ readWord s .dwellAge = s.tsq.dwellAge.setWidth 32
    ∧ readWord s .paths = (0#23 ++ BitVec.ofBool s.rqp.held ++ 0#2
        ++ (match s.rsp.inProcess.map RspTxn.phase with
            | none => 0#2 | some .checks => 1#2 | some .verdictWait => 2#2 | some (.offered _) => 3#2)
        ++ BitVec.ofBool s.rqp.inProcess.isSome
        ++ (match s.rqp.inProcess.map RqpTxn.phase with
            | none => 0#3 | some .checks => 1#3 | some .verdictWait => 2#3 | some .holdPoint => 3#3
            | some .roomWait => 4#3 | some (.offered _) => 5#3) : BitVec 32)
    ∧ readWord s .holdAge = s.rqp.holdAge.setWidth 32
    ∧ readWord s .tableCounts = (0#1 ++ s.ott.purgeCount ++ 0#1 ++ BitVec.ofNat 7 (slotCount .orphaned s) ++ 0#1
        ++ BitVec.ofNat 7 (slotCount .live s) ++ 0#1 ++ BitVec.ofNat 7 (slotCount .free s) : BitVec 32)
    ∧ readWord s .timeoutInForce = (0#15 ++ BitVec.ofBool (decide (s.ott.policy = .abandon)) ++ s.ott.timeout : BitVec 32)
    ∧ readWord s .merge = (0#24
        ++ (match s.rmg.offer with | none => 0#2 | some .rsp => 1#2 | some .queue => 2#2)
        ++ BitVec.ofBool (decide (s.rmg.pointer = .queue)) ++ BitVec.ofBool s.rqp.inProcess.isSome
        ++ BitVec.ofNat 4 s.rmg.queue.length : BitVec 32)
    ∧ readWord s .store = (0#6 ++ BitVec.ofBool s.tcu.capturing ++ BitVec.ofBool s.tst.stopped
        ++ BitVec.ofNat 8 (reserved s) ++ 0#3 ++ BitVec.ofNat 13 (fill s) : BitVec 32)
    ∧ readWord s .counts = (s.tcu.lossCount ++ s.tst.overwrite : BitVec 32)
    ∧ readWord s .timestamp = s.tbs.timestamp)
  ∧ ∀ e : Entry, e.words =
      [(e.tag ++ 0#3 ++ e.initiator ++ e.lenM1 ++ 0#2 ++ BitVec.ofBool (decide (e.cls = .privileged))
          ++ BitVec.ofBool (decide (e.kind = .write)) ++ BitVec.ofNat 3 e.reservation ++ BitVec.ofBool e.traced
          ++ BitVec.ofBool e.expired ++ BitVec.ofBool e.gen
          ++ (match e.state with | .free => 0#2 | .live => 1#2 | .orphaned => 2#2) : BitVec 32),
       (0#8 ++ e.addr.extractLsb' 32 8 ++ 0#8 ++ e.context : BitVec 32), e.addr.extractLsb' 0 32, e.stamp,
       e.age.setWidth 32]

/-- R130: the status of TRACE_READ, the conditions in the order of the table, and the snapshot: the oldest records
whose sizes sum to at most the requested count. That a refused TRACE_READ shifts out the size 0 as two snapshot bytes is
the model's (log entry 13). -/
def Obligations.TraceReadFixesTheOldestRecords : Prop :=
  ∀ (count : Half) (s : State), BetweenFrames s → ∃ t, exec (.traceRead count) s = .next t
    ∧ t.tst.records = s.tst.records ∧ fill t = fill s
    ∧ t.mgp.frameStatus = some
        (if modeOf s ≠ .ring ∧ modeOf s ≠ .stop then .wrongMode
         else if count.toNat < 1 ∨ 512 < count.toNat then .badIndex
         else if s.tst.records = [] then .empty
         else .ok)
    ∧ (t.mgp.frameStatus = some .ok → ∃ n, t.tst.snapshot = some n ∧ n ≤ s.tst.records.length
        ∧ slotsOf (s.tst.records.take n) ≤ count.toNat
        ∧ (n < s.tst.records.length → count.toNat < slotsOf (s.tst.records.take (n + 1)))
        ∧ t.mgp.snapshot = some (halfBytes (BitVec.ofNat 16 (slotsOf (s.tst.records.take n)))
            ++ (s.tst.records.take n).flatten.flatMap slotBytes))
    ∧ (t.mgp.frameStatus ≠ some .ok → t.tst = s.tst ∧ t.mgp.snapshot = some [0, 0])

/-- R131, R109: at a TRACE_READ frame's end the records of the snapshot that were shifted out whole are removed, oldest
first; STOPPED is cleared if one was; the status stands. -/
def Obligations.TraceReadEndRemovesWhatWasRead : Prop :=
  ∀ (s : State) (snap k more : Nat), Powered s → s.mgp.received.head? = some 0x24 → s.mgp.frameStatus = some .ok →
    s.tst.snapshot = some snap → k ≤ snap → snap ≤ s.tst.records.length →
    5 + 8 * slotsOf (s.tst.records.take k) ≤ s.mgp.bytePos.toNat + more →
    (k < snap → s.mgp.bytePos.toNat + more < 5 + 8 * slotsOf (s.tst.records.take (k + 1))) →
    ∃ t, exec (.traceReadEnd more) s = .next t
      ∧ t.tst = { s.tst with
          records := s.tst.records.drop k, snapshot := none, stopped := decide (k = 0) && s.tst.stopped }
      ∧ t.mgp = Mgp.idle .ok
      ∧ (k ≠ 0 → fill t = 0 → t.tcu = { s.tcu with refValid := false, syncNeeded := true })
      ∧ (k = 0 ∨ fill t ≠ 0 → t.tcu = s.tcu)

/-- R13, R82, R93, R127, R143, R149, R157: a one-word write of a configuration word outside the lock sets its fields
and changes nothing else; a divisor write also sets the prescale count to 0. -/
def Obligations.ConfigurationWritesSetTheirFields : Prop :=
  ∀ (w w2 : Word) (s : State), BetweenFrames s →
    exec (.timeoutWrite 0x000 1 [w]) s =
      .next { s with
        ott := { s.ott with
          timeout := w.extractLsb' 0 16, policy := if w.getLsbD 16 then .abandon else .report }
        mgp := Mgp.idle .ok }
    ∧ exec (.holdLimitWrite 0x001 1 [w]) s =
      .next { s with rqp := { s.rqp with holdLimit := w.extractLsb' 0 16 }, mgp := Mgp.idle .ok }
    ∧ exec (.divisorWrite 0x002 1 [w]) s =
      .next { s with tbs := { s.tbs with divisor := w.extractLsb' 0 16, prescale := 0 }, mgp := Mgp.idle .ok }
    ∧ exec (.captureConfigurationWrite 0x091 2 [w, w2]) s =
      .next { s with
        tcu := { s.tcu with
          captureSet := w.extractLsb' 0 8, byChannels := w.getLsbD 8, firstBeat := w2.getLsbD 0 }
        mgp := Mgp.idle .ok }
    ∧ exec (.thresholdWrite 0x093 1 [w]) s =
      .next { s with tst := { s.tst with threshold := w.extractLsb' 0 13 }, mgp := Mgp.idle .ok }
    ∧ exec (.enableWrite 0x0A0 1 [w]) s =
      .next { s with alc := { s.alc with enable := w.extractLsb' 0 6 }, mgp := Mgp.idle .ok }
    ∧ exec (.maskWrite 0x0B0 1 [w]) s =
      .next { s with
        ans := { s.ans with anMask := w.extractLsb' 0 6, alertMask := w.extractLsb' 8 6 }, mgp := Mgp.idle .ok }

/-- R128, R114, R97: a mode write empties the record sequence, clears overwrite count, STOPPED, traced flags and
reservations, and resets TCU's loss count and compression; the record in transmission and the threshold stay. A request
in ROOM_WAIT, its capture cancelled, begins its offer, or, while the hold is in effect, waits at the hold point (log
entry 10); every other request stays. -/
def Obligations.AModeWriteEmptiesTheStore : Prop :=
  ∀ (w : Word) (s : State), BetweenFrames s → ∃ t, exec (.modeWrite 0x090 1 [w]) s = .next t
    ∧ t.tst = { s.tst with mode := w.extractLsb' 0 3, records := [], overwrite := 0, stopped := false }
    ∧ t.tcu = { s.tcu with lossCount := 0, refValid := false, syncNeeded := true, capture := none }
    ∧ (∀ n : Fin 64, entry t n = { entry s n with traced := false, reservation := 0 })
    ∧ reserved t = 0 ∧ claim t = 0 ∧ fill t = egressTail s ∧ t.alc = s.alc ∧ t.mgp = Mgp.idle .ok
    ∧ t.rqp.held = s.rqp.held ∧ t.tsq = s.tsq ∧ t.mu = s.mu ∧ t.rsp = s.rsp ∧ t.rmg = s.rmg ∧ t.ans = s.ans
    ∧ (∀ x n, s.rqp.inProcess = some x → x.phase = .roomWait → s.rqp.held = false → LowestFree s n →
        t.rqp.inProcess = some { x with phase := .offered n })
    ∧ (∀ x, s.rqp.inProcess = some x → x.phase = .roomWait → s.rqp.held = true →
        t.rqp.inProcess = some { x with phase := .holdPoint })
    ∧ (NoneWaitsForRoom s → t.rqp = s.rqp)

/-- R27, R46, R188: with TSQ not ARMED the programmable words of a channel and of a stage are written as given; the
channel keeps its match flag and hit count. -/
def Obligations.TheProgramIsWrittenAsGiven : Prop :=
  ∀ (n : Fin 8) (m : Fin 4) (w0 w1 w2 w3 w4 w5 w6 w7 w8 w9 w10 : Word) (c : Channel) (st : Stage) (s : State),
    BetweenFrames s → s.tsq.state ≠ .armed →
    c = { enable := w0.getLsbD 0
          side := if w0.getLsbD 1 then .response else .request
          kindFilter := w0.extractLsb' 2 2
          outside := w0.getLsbD 4
          classFilter := w0.extractLsb' 5 2
          statusFilter := w0.extractLsb' 7 2
          windowLow := w2.extractLsb' 0 8 ++ w1
          windowHigh := w4.extractLsb' 0 8 ++ w3
          initValue := w5.extractLsb' 0 5
          initMask := w5.extractLsb' 8 5
          ctxValue := w6.extractLsb' 0 8
          ctxMask := w6.extractLsb' 8 8
          lengthMin := w7.extractLsb' 0 5
          lengthMax := w7.extractLsb' 8 5
          dataValue := w8
          dataMask := w9
          dataFilter := w10.getLsbD 0
          laneSelect := w10.extractLsb' 1 3
          windowBound := w10.getLsbD 4
          matchFlag := (s.mu.channels[n]).matchFlag
          hitCount := (s.mu.channels[n]).hitCount } →
    st = { exit0 := ⟨w0.extractLsb' 0 10, w1.extractLsb' 0 12, w2.extractLsb' 0 3, w2.extractLsb' 8 7⟩
           exit1 := ⟨w3.extractLsb' 0 10, w4.extractLsb' 0 12, w5.extractLsb' 0 3, w5.extractLsb' 8 7⟩
           dwellLimit := w6.extractLsb' 0 16
           dwellTarget := w7.extractLsb' 0 3
           dwellActions := w7.extractLsb' 8 7 } →
    exec (.channelRecordWrite (BitVec.ofNat 16 (0x010 + 12 * n.val)) 11 [w0, w1, w2, w3, w4, w5, w6, w7, w8, w9, w10]) s =
      .next { s with mu := { channels := s.mu.channels.set n c }, mgp := Mgp.idle .ok }
    ∧ exec (.stageRecordWrite (BitVec.ofNat 16 (0x070 + 8 * m.val)) 8 [w0, w1, w2, w3, w4, w5, w6, w7]) s =
      .next { s with tsq := { s.tsq with stages := s.tsq.stages.set m st }, mgp := Mgp.idle .ok }

/-- R185, R188, R190: a WRITE_REG frame that is refused writes nothing and leaves the status of the first check
that applies: BAD_INDEX outside the window, LOCKED for a word under the lock while ARMED, BAD_INDEX for a read-only word
where the lock does not apply first; cut short it leaves ABORTED. R190, R197: at which index each word stands, and
which words are locked and which are read-only; every other index lies outside the window. -/
def Obligations.ARefusedWriteWritesNothing : Prop :=
  (∀ (index : Half) (count : Byte) (words : List Word) (s : State), BetweenFrames s →
    ∀ c ∈ writeRows index count words,
      ((¬ (1 ≤ count.toNat ∧ count.toNat ≤ 64) ∨
          (count.toNat ≤ words.length ∧ ∃ k < count.toNat, wordAt (index.toNat + k) = none)) →
        exec c s = .next { s with mgp := Mgp.idle .badIndex })
      ∧ (1 ≤ count.toNat → count.toNat ≤ 64 → words.length < count.toNat →
        exec c s = .next { s with mgp := Mgp.idle .aborted })
      ∧ (1 ≤ count.toNat → count.toNat ≤ 64 → count.toNat ≤ words.length →
          (∀ k < count.toNat, wordAt (index.toNat + k) ≠ none) →
        ((∃ k x, k < count.toNat ∧ wordAt (index.toNat + k) = some x ∧ locked x = true) → s.tsq.state = .armed →
          exec c s = .next { s with mgp := Mgp.idle .locked })
        ∧ ((∃ k x, k < count.toNat ∧ wordAt (index.toNat + k) = some x ∧ readOnly x = true) →
            (s.tsq.state ≠ .armed
              ∨ ∀ k x, k < count.toNat → wordAt (index.toNat + k) = some x → locked x = false) →
          exec c s = .next { s with mgp := Mgp.idle .badIndex })))
  ∧ (∀ (n : Fin 8) (k : Fin 12), wordAt (0x010 + 12 * n.val + k.val) = some (.channel n k)
    ∧ (locked (.channel n k) = true ↔ k.val ≤ 10) ∧ (readOnly (.channel n k) = true ↔ k.val = 11))
  ∧ (∀ (n : Fin 4) (k : Fin 8), wordAt (0x070 + 8 * n.val + k.val) = some (.stage n k)
    ∧ locked (.stage n k) = true ∧ readOnly (.stage n k) = false)
  ∧ (∀ p ∈ [(0x000, WinWord.timeout), (0x001, .holdLimit), (0x002, .divisor), (0x090, .storeMode),
      (0x091, .captureSelection), (0x092, .dataOption), (0x093, .threshold), (0x0A0, .alertEnable),
      (0x0B0, .anomalyMasks)],
    wordAt p.1 = some p.2 ∧ locked p.2 = false ∧ readOnly p.2 = false)
  ∧ (∀ p ∈ [(0x0A1, WinWord.alertPending), (0x0B1, .anomalyFlags), (0x0B2, .anomalyCounts0),
      (0x0B3, .anomalyCounts1), (0x0B4, .firstAnomaly), (0x0B5, .firstAddressLow), (0x0B6, .firstAddressHigh),
      (0x0B7, .firstTimestamp), (0x0C0, .sequencer), (0x0C1, .exitCounters), (0x0C2, .dwellAge), (0x0C3, .paths),
      (0x0C4, .holdAge), (0x0C5, .tableCounts), (0x0C6, .timeoutInForce), (0x0C7, .merge), (0x0C8, .store),
      (0x0C9, .counts), (0x0CA, .timestamp)],
    wordAt p.1 = some p.2 ∧ locked p.2 = false ∧ readOnly p.2 = true)
  ∧ ∀ i : Nat, (0x002 < i ∧ i < 0x010) ∨ (0x093 < i ∧ i < 0x0A0) ∨ (0x0A1 < i ∧ i < 0x0B0)
    ∨ (0x0B7 < i ∧ i < 0x0C0) ∨ 0x0CA < i → wordAt i = none

/-- R187, R189, R197: every read-write word reads back exactly as written, undefined bits as 0. The bits that the map
defines in each word (word +k of a channel or of a stage). -/
def Obligations.WordsReadBackAsWritten : Prop :=
  (∀ (x : WinWord) (w : Word) (s : State), readOnly x = false → readWord (writeWord s x w) x = w &&& definedBits x)
  ∧ (∀ p ∈ [(WinWord.timeout, (0x1FFFF : Word)), (.holdLimit, 0xFFFF), (.divisor, 0xFFFF), (.storeMode, 0x7),
      (.captureSelection, 0x1FF), (.dataOption, 0x1), (.threshold, 0x1FFF), (.alertEnable, 0x3F),
      (.anomalyMasks, 0x3F3F)], definedBits p.1 = p.2)
  ∧ (∀ n : Fin 8, ∀ p ∈ [((0 : Fin 12), (0x1FF : Word)), (1, 0xFFFFFFFF), (2, 0xFF), (3, 0xFFFFFFFF), (4, 0xFF), (5, 0x1F1F),
      (6, 0xFFFF), (7, 0x1F1F), (8, 0xFFFFFFFF), (9, 0xFFFFFFFF), (10, 0x1F)], definedBits (.channel n p.1) = p.2)
  ∧ ∀ n : Fin 4, ∀ p ∈ [((0 : Fin 8), (0x3FF : Word)), (1, 0xFFF), (2, 0x7F07), (3, 0x3FF), (4, 0xFFF), (5, 0x7F07), (6, 0xFFFF),
      (7, 0x7F07)], definedBits (.stage n p.1) = p.2

/-! ### Action commands -/

/-- R48, R92, R144, R150, R193: the commands that set or clear registers of one block: each changes exactly those. ARM is
latched when the latch is empty and TSQ is not ARMED, DISARM when the latch is empty, and otherwise the status is BUSY
and nothing is latched; every other status is OK. -/
def Obligations.RegisterCommandsChangeTheirBlock : Prop :=
  ∀ (causes : Byte) (s : State), BetweenFrames s →
    (s.tsq.command = none → s.tsq.state ≠ .armed → exec .arm s =
      .next { s with tsq := { s.tsq with command := some .arm }, mgp := Mgp.idle .ok })
    ∧ (s.tsq.command ≠ none ∨ s.tsq.state = .armed → exec .arm s = .next { s with mgp := Mgp.idle .busy })
    ∧ (s.tsq.command = none → exec .disarm s =
      .next { s with tsq := { s.tsq with command := some .disarm }, mgp := Mgp.idle .ok })
    ∧ (s.tsq.command ≠ none → exec .disarm s = .next { s with mgp := Mgp.idle .busy })
    ∧ exec .startCapture s = .next { s with tcu := { s.tcu with capturing := true }, mgp := Mgp.idle .ok }
    ∧ exec .stopCapture s = .next { s with tcu := { s.tcu with capturing := false }, mgp := Mgp.idle .ok }
    ∧ exec (.ackAlert causes) s =
      .next { s with alc := { s.alc with pending := s.alc.pending &&& ~~~(causes.extractLsb' 0 6) }, mgp := Mgp.idle .ok }
    ∧ exec .ackAnomaly s =
      .next { s with ans := { s.ans with flags := 0, counts := Vector.replicate 6 0, first := none }, mgp := Mgp.idle .ok }

/-- R43, R20: CLEAR_MATCH clears every match flag and sets every hit count to 0, the records keeping their programmable
fields; PURGE_ORPHANS frees every ORPHANED slot and writes their number to the purge count. Everything else stays. -/
def Obligations.ClearMatchAndPurgeReachEveryRecord : Prop :=
  ∀ s : State, BetweenFrames s →
    (∃ mu : Mu, exec .clearMatch s = .next { s with mu := mu, mgp := Mgp.idle .ok }
      ∧ ∀ n : Fin 8, mu.channels[n] = { s.mu.channels[n] with matchFlag := false, hitCount := 0 })
    ∧ (∃ t, exec .purgeOrphans s = .next t
      ∧ (∀ n : Fin 64, (entry s n).state = .orphaned → entry t n =
          { entry s n with state := .free, expired := false, traced := false, reservation := 0 })
      ∧ (∀ n : Fin 64, (entry s n).state ≠ .orphaned → entry t n = entry s n)
      ∧ t.ott.purgeCount.toNat = slotCount .orphaned s
      ∧ t = { s with ott := t.ott, mgp := Mgp.idle .ok }
      ∧ t.ott.timeout = s.ott.timeout ∧ t.ott.policy = s.ott.policy)

/-- R79, R80: RELEASE_HOLD ends the hold, the hold age and limit staying as they are; a request in ROOM_WAIT whose
claim is granted, or can be granted now (R123), begins its offer, and one without room goes on waiting. A request at the
hold point passes it as its next event (R80); that a request whose offer was withdrawn stands there too, and begins its new
offer by that passage and not within RELEASE_HOLD, is the model's reading of R78, R80, R165 and R169 (log entry 9). -/
def Obligations.ReleaseHoldEndsTheHold : Prop :=
  ∀ s : State, BetweenFrames s →
    ((∀ t, s.rqp.inProcess = some t → t.phase ≠ .roomWait) → exec .releaseHold s =
      .next { s with rqp := { s.rqp with held := false }, mgp := Mgp.idle .ok })
    ∧ (∀ t c n, s.rqp.inProcess = some t → t.phase = .roomWait → s.tcu.capture = some c → c.granted = true →
      LowestFree s n → exec .releaseHold s =
        .next { s with
          rqp := { s.rqp with held := false, inProcess := some { t with phase := .offered n } }
          mgp := Mgp.idle .ok })
    ∧ (∀ t c n, s.rqp.inProcess = some t → t.phase = .roomWait → s.tcu.capture = some c → c.granted = false →
      0 < c.claimSize → LowestFree s n →
      (c.claimSize + fill s + reserved s ≤ Config.storeSlots → exec .releaseHold s =
        .next { s with
          rqp := { s.rqp with held := false, inProcess := some { t with phase := .offered n } }
          tcu := { s.tcu with capture := some { c with granted := true } }
          mgp := Mgp.idle .ok })
      ∧ (Config.storeSlots < c.claimSize + fill s + reserved s → exec .releaseHold s =
        .next { s with rqp := { s.rqp with held := false }, mgp := Mgp.idle .ok }))

/-- R102, R103, R104, R117 to R121, R124, R126: MARK offers its record as a group: LOSS and SYNC records as needed, then the
record, each one slot. In OFF nothing changes but the port. A group that fits is placed, THRESHOLD being raised when the
fill goes from below the threshold to it. One that does not fit: in RING the oldest records leave until it does and are
counted, unless a snapshot pins them, when it is dropped; in STOP it is dropped uncounted and STOPPED is set; in the
STREAM modes it is dropped. A counted drop adds to the loss count, calls for a SYNC, and raises LOSS. R111, R112: the bits
of every record, from bit 63 of its header down: LOSS, SYNC, MARK, REQUEST in DELTA and in FULL form with the address slot
and the data slots, RESPONSE, STAGE, ANOMALY with its address slot, LINKRESET, with the codes of the coded fields. -/
def Obligations.MarkPlacesItsRecord : Prop :=
  (∀ (value : Word) (s : State), BetweenFrames s → modeOf s = .off →
    exec (.mark value) s = .next { s with mgp := Mgp.idle .ok })
  ∧ (∀ (r : Record) (s : State), composeGroup r s =
      (if s.tcu.lossCount = 0 then []
        else [[(0x8#4 ++ s.tbs.timestamp.extractLsb' 0 16 ++ s.tcu.lossCount ++ 0#28 : BitVec 64)]])
      ++ (if s.tcu.syncNeeded = true ∨ s.tbs.timestamp.extractLsb' 16 16 ≠ s.tcu.lastSyncHigh then
          [[(0xA#4 ++ s.tbs.timestamp.extractLsb' 0 16 ++ s.tbs.timestamp ++ 0#12 : BitVec 64)]] else [])
      ++ [r])
  ∧ (∀ (r : Request) (w f : Bool) (slot : BitVec 7) (delta : BitVec 18) (ts : Word) (data : List Slot64),
      (w = false → data = []) →
      (w = true → ∃ b rest, r.beats = b :: rest ∧ data = [b.data.extractLsb' 0 64, b.data.extractLsb' 64 64]) →
      requestDelta r w slot delta ts =
        ((if r.kind = .read then 0x1#4 else 0x3#4) ++ ts.extractLsb' 0 16 ++ r.lenM1 ++ r.initiator
          ++ (if r.cls = .privileged then 1#1 else 0#1) ++ BitVec.ofBool w ++ r.tag ++ slot ++ delta : BitVec 64) :: data
      ∧ requestFull r w f slot ts =
        ((if r.kind = .read then 0x2#4 else 0x4#4) ++ ts.extractLsb' 0 16 ++ r.lenM1 ++ r.initiator
          ++ (if r.cls = .privileged then 1#1 else 0#1) ++ BitVec.ofBool w ++ r.tag ++ slot ++ 0#18 : BitVec 64)
        :: (r.addr ++ r.context ++ BitVec.ofBool f ++ 0#15 : BitVec 64) :: data)
  ∧ (∀ (status : RecordStatus) (code : BitVec 3) (initiator : BitVec 5) (tag : Byte) (slot : BitVec 7) (latency : Half)
      (d : BeatData) (ts : Word),
      (status, code) ∈ [(.okay, 0#3), (.fault, 1#3), (.fenced, 2#3), (.timeout, 3#3)] →
      responseRecord status initiator tag slot latency none ts =
        [(0x5#4 ++ ts.extractLsb' 0 16 ++ code ++ 0#1 ++ initiator ++ tag ++ slot ++ latency ++ 0#4 : BitVec 64)]
      ∧ responseRecord status initiator tag slot latency (some d) ts =
        [(0x5#4 ++ ts.extractLsb' 0 16 ++ code ++ 1#1 ++ initiator ++ tag ++ slot ++ latency ++ 0#4 : BitVec 64),
         d.extractLsb' 0 64, d.extractLsb' 64 64])
  ∧ (∀ (source dest code : BitVec 3) (cause : StageCause) (actions : BitVec 7) (ts : Word),
      (cause, code) ∈ [(.exit0, 0#3), (.exit1, 1#3), (.dwell, 2#3), (.arm, 3#3), (.disarm, 4#3)] →
      stageRecord source dest cause actions ts =
        [(0x6#4 ++ ts.extractLsb' 0 16 ++ source ++ dest ++ code
          ++ BitVec.ofBool (actions.getLsbD 0) ++ BitVec.ofBool (actions.getLsbD 1) ++ BitVec.ofBool (actions.getLsbD 2)
          ++ BitVec.ofBool (actions.getLsbD 3) ++ BitVec.ofBool (actions.getLsbD 4) ++ BitVec.ofBool (actions.getLsbD 5)
          ++ BitVec.ofBool (actions.getLsbD 6) ++ 0#28 : BitVec 64)])
  ∧ (∀ (a : Anomaly) (code : BitVec 3) (ts : Word),
      (a.cls, code) ∈ [(.malformedRequest, 0#3), (.duplicateTag, 1#3), (.unsolicitedResponse, 2#3), (.lateResponse, 3#3),
        (.malformedResponse, 4#3), (.timeout, 5#3)] →
      anomalyRecord a ts =
        [(0x7#4 ++ ts.extractLsb' 0 16 ++ code ++ a.slot ++ a.initiator ++ a.tag ++ 0#21 : BitVec 64),
         (a.addr ++ 0#24 : BitVec 64)])
  ∧ (∀ (live orphaned : Nat) (ts : Word), linkResetRecord live orphaned ts =
      [(0xB#4 ++ ts.extractLsb' 0 16 ++ BitVec.ofNat 7 live ++ BitVec.ofNat 7 orphaned ++ 0#30 : BitVec 64)])
  ∧ ∀ (value : Word) (s : State) (r : Record) (k : Nat), BetweenFrames s → modeOf s ≠ .off →
    r = [(0x9#4 ++ s.tbs.timestamp.extractLsb' 0 16 ++ value ++ 0#12 : BitVec 64)] →
    k = (composeGroup r s).flatten.length → ∃ t, exec (.mark value) s = .next t
      ∧ t.mgp = Mgp.idle .ok ∧ t.ott = s.ott ∧ t.rqp = s.rqp ∧ t.tsq = s.tsq ∧ t.ans = s.ans ∧ t.mu = s.mu
      ∧ t.rsp = s.rsp ∧ t.rmg = s.rmg ∧ t.tbs = s.tbs ∧ t.pulse = s.pulse ∧ t.pins = s.pins
      ∧ (FitsAsItIs s k → RecordStored r s t ∧ t.alc = { s.alc with pending := s.alc.pending |||
            (if fill s < max 1 (min 4096 s.tst.threshold.toNat) ∧ max 1 (min 4096 s.tst.threshold.toNat) ≤ fill s + k then
              0b000100 else 0) })
      ∧ (∀ n, modeOf s = .ring → s.tst.snapshot = none ∨ s.tst.snapshot = some 0 →
          fill s + reserved s ≤ Config.storeSlots → n ≤ s.tst.records.length →
          k + fill s + reserved s ≤ Config.storeSlots + slotsOf (s.tst.records.take n) →
          (∀ j < n, Config.storeSlots + slotsOf (s.tst.records.take j) < k + fill s + reserved s) →
          t.tst.records = s.tst.records.drop n ++ composeGroup r s
          ∧ t.tst.overwrite.toNat = min 65535 (s.tst.overwrite.toNat + n)
          ∧ t.tst = { s.tst with records := t.tst.records, overwrite := t.tst.overwrite }
          ∧ t.tcu.lossCount = 0 ∧ t.tcu.syncNeeded = false)
      ∧ (∀ n, modeOf s = .ring → s.tst.snapshot = some n → 0 < n →
          Config.storeSlots < k + fill s + reserved s → RecordLost s t)
      ∧ (modeOf s = .stop → s.tst.stopped = true ∨ Config.storeSlots < k + fill s + reserved s →
          t.tst = { s.tst with stopped := true } ∧ t.tcu = { s.tcu with syncNeeded := true, refValid := false }
          ∧ t.alc = s.alc)
      ∧ (modeOf s = .streamDrop ∨ modeOf s = .streamStall → Config.storeSlots < k + claim s + fill s + reserved s →
          t.tst = s.tst
          ∧ t.tcu = { s.tcu with lossCount := satInc s.tcu.lossCount, syncNeeded := true, refValid := false }
          ∧ t.alc = { s.alc with pending := s.alc.pending ||| 0b001000 })

/-- R195 and the CLEAR_WATCH columns of the reset tables: the watch state is cleared, the traffic, the program, the
configuration and the timebase stay, and no cause is left pending. That a withdrawn request stays at the hold point when
CLEAR_WATCH ends the hold, until HOLD_POINT_PASS, is the model's (log entry 9). -/
def Obligations.ClearWatchClearsTheWatchState : Prop :=
  ∀ s : State, BetweenFrames s → ∃ t, exec .clearWatch s = .next t
    ∧ (∀ n : Fin 64, entry t n = { entry s n with traced := false, reservation := 0 })
    ∧ t.ott.timeout = s.ott.timeout ∧ t.ott.policy = s.ott.policy ∧ t.ott.purgeCount = s.ott.purgeCount
    ∧ (∀ n : Fin 8, t.mu.channels[n] = { s.mu.channels[n] with matchFlag := false, hitCount := 0 })
    ∧ t.tsq = { stages := s.tsq.stages, state := .idle, stage := 0, counter0 := 0, counter1 := 0, dwellAge := 0,
                rqpReport := none, rspReport := none, xt := false, an := false, dwellExpiry := false, command := none,
                pointer := .rqpReport }
    ∧ t.rqp.held = false ∧ t.rqp.holdAge = s.rqp.holdAge ∧ t.rqp.holdLimit = s.rqp.holdLimit
    ∧ (s.rqp.inProcess = none → t.rqp.inProcess = none)
    ∧ (∀ x, s.rqp.inProcess = some x → x.phase = .verdictWait →
        t.rqp.inProcess = some { x with phase := .holdPoint })
    ∧ (∀ x, s.rqp.inProcess = some x → x.phase ≠ .verdictWait → x.phase ≠ .roomWait →
        t.rqp.inProcess = some x)
    ∧ (∀ x n, s.rqp.inProcess = some x → x.phase = .roomWait → LowestFree s n →
        t.rqp.inProcess = some { x with phase := .offered n })
    ∧ (∀ x, s.rsp.inProcess = some x → x.phase = .verdictWait → t.rsp.inProcess = some { x with
        phase := .offered ⟨(entry s x.slot).tag, (entry s x.slot).initiator, upStatus x.status, x.data⟩ })
    ∧ ((∀ x, s.rsp.inProcess = some x → x.phase ≠ .verdictWait) → t.rsp = s.rsp)
    ∧ t.rmg = s.rmg
    ∧ t.tcu = { s.tcu with capturing := false, refValid := false, syncNeeded := true, lossCount := 0, capture := none }
    ∧ t.tst = { s.tst with records := [], tx := none, overwrite := 0, stopped := false, snapshot := none }
    ∧ t.ans = { s.ans with flags := 0, counts := Vector.replicate 6 0, first := none }
    ∧ t.alc = { s.alc with pending := 0 } ∧ alertLine t = false
    ∧ t.tbs = s.tbs ∧ t.pulse = s.pulse ∧ t.mgp = Mgp.idle .ok

/-! ### Conditions -/

/-- R31, R32 to R35, R40: a channel matches a transaction when it is enabled, on the transaction's side, and every one of
its conditions holds: address, kind, initiator, context, class, length, on the response side status, and data. The
address condition: INSIDE holds when at least one byte of the span lies in the window, OUTSIDE when none does. The fields
are the request's, or those of the response's entry with the response's status. -/
def Obligations.TheAddressConditionIsAboutBytes : Prop :=
  (∀ (c : Channel) (t : Watched),
    (c.outside = false → (addressHolds c t = true ↔ ∃ b, InSpan t.addr t.lenM1 b ∧ InWindow c b))
    ∧ (c.outside = true → (addressHolds c t = true ↔ ¬ ∃ b, InSpan t.addr t.lenM1 b ∧ InWindow c b)))
  ∧ (∀ (c : Channel) (t : Watched), channelMatches c t = true ↔
      c.enable = true ∧ c.side = t.side ∧ addressHolds c t = true
      ∧ (c.kindFilter = 1 → t.kind = .read) ∧ (c.kindFilter = 2 → t.kind = .write)
      ∧ (∀ i < 5, c.initMask.getLsbD i = true → t.initiator.getLsbD i = c.initValue.getLsbD i)
      ∧ (∀ i < 8, c.ctxMask.getLsbD i = true → t.context.getLsbD i = c.ctxValue.getLsbD i)
      ∧ (c.classFilter = 1 → t.cls = .ordinary) ∧ (c.classFilter = 2 → t.cls = .privileged)
      ∧ c.lengthMin.toNat ≤ t.lenM1.toNat + 1 ∧ t.lenM1.toNat + 1 ≤ c.lengthMax.toNat
      ∧ (∀ st, t.status = some st → (c.statusFilter = 1 → st = .okay) ∧ (c.statusFilter = 2 → st = .fault))
      ∧ dataHolds c t = true)
  ∧ (∀ r : Request, (watchedRequest r).addr = r.addr ∧ (watchedRequest r).lenM1 = r.lenM1
      ∧ (watchedRequest r).side = .request ∧ (watchedRequest r).kind = r.kind
      ∧ (watchedRequest r).initiator = r.initiator ∧ (watchedRequest r).context = r.context
      ∧ (watchedRequest r).cls = r.cls ∧ (watchedRequest r).status = none)
  ∧ ∀ (e : Entry) (st : DownStatus) (data : List BeatData),
    (watchedResponse e st data).addr = e.addr ∧ (watchedResponse e st data).lenM1 = e.lenM1
    ∧ (watchedResponse e st data).side = .response ∧ (watchedResponse e st data).kind = e.kind
    ∧ (watchedResponse e st data).initiator = e.initiator ∧ (watchedResponse e st data).context = e.context
    ∧ (watchedResponse e st data).cls = e.cls ∧ (watchedResponse e st data).status = some st


/-- R36 to R39: the data condition holds with the filter off. With it on, it holds when some beat that carries data and,
when window-bound, has a byte in the window, has a candidate lane, fully enabled, that agrees with the value in every bit
of the mask. The beats that carry data are those of a WRITE request with their byte enables, and of an OKAY READ
response, where every lane is enabled. -/
def Obligations.TheDataConditionFindsALane : Prop :=
  (∀ (c : Channel) (t : Watched), c.dataFilter = false → dataHolds c t = true)
  ∧ (∀ (c : Channel) (t : Watched), c.dataFilter = true → (dataHolds c t = true ↔
    ∃ (k : Nat) (b : BeatData × BitVec 16) (n : Nat), t.beats[k]? = some b ∧ n < 4
      ∧ (c.laneSelect.toNat < 4 → n = c.laneSelect.toNat)
      ∧ (c.windowBound = true →
          ∃ a, base16 t.addr + 16 * k ≤ a ∧ a < base16 t.addr + 16 * k + 16 ∧ InWindow c a)
      ∧ (∀ i < 4, b.2.getLsbD (4 * n + i) = true)
      ∧ ∀ i < 32, c.dataMask.getLsbD i = true → b.1.getLsbD (32 * n + i) = c.dataValue.getLsbD i))
  ∧ (∀ r : Request, (r.kind = .write → (watchedRequest r).beats = r.beats.map fun b => (b.data, b.enables))
      ∧ (r.kind = .read → (watchedRequest r).beats = []))
  ∧ ∀ (e : Entry) (st : DownStatus) (data : List BeatData),
    (st = .okay ∧ e.kind = .read → (watchedResponse e st data).beats = data.map fun d => (d, BitVec.allOnes 16))
    ∧ (st = .fault ∨ e.kind = .write → (watchedResponse e st data).beats = [])

/-- R148: the ALERT line is asserted exactly when some cause is both pending and enabled. -/
def Obligations.TheAlertLineFollowsTheSets : Prop :=
  ∀ s : State, alertLine s = true ↔
    ∃ i, i < 6 ∧ s.alc.pending.getLsbD i = true ∧ s.alc.enable.getLsbD i = true

/-! ### Invariants -/

/-- The invariants of Safety.lean hold at State.reset. -/
def Obligations.TheInvariantsHoldAtReset : Prop :=
  QueueWithinBound State.reset ∧ LivePairsDistinct State.reset ∧ RequestNotDuplicate State.reset
    ∧ AgesFollowTimestamp State.reset ∧ PathsAgreeWithTable State.reset ∧ StoreWithinBound State.reset
    ∧ SequencerWithinProgram State.reset ∧ PrescaleBelowDivisor State.reset ∧ HeldAtPowerOn State.reset
    ∧ LinksQuiet State.reset ∧ ReportsAgreeWithPaths State.reset ∧ TraceFieldsClear State.reset
    ∧ ResponsesWellFormed State.reset

/-- R175: every step keeps the number queued plus the number reserved at most 8. -/
def Obligations.EveryStepKeepsTheQueueWithinBound : Prop :=
  ∀ s t : State, QueueWithinBound s → step s = .next t → QueueWithinBound t

/-- R6: every step keeps the LIVE pairs distinct and the request in RQP no duplicate of one, the paths being in
agreement with the table. -/
def Obligations.EveryStepKeepsTheTableConsistent : Prop :=
  ∀ s t : State, LivePairsDistinct s ∧ RequestNotDuplicate s ∧ PathsAgreeWithTable s → step s = .next t →
    LivePairsDistinct t ∧ RequestNotDuplicate t

/-- R3, R4, R8, R51, R163, R177: every step keeps the paths in agreement with the table, the report latches with the
paths, and the responses well formed. -/
def Obligations.EveryStepKeepsThePathsConsistent : Prop :=
  ∀ s t : State, PathsAgreeWithTable s ∧ ReportsAgreeWithPaths s ∧ ResponsesWellFormed s → step s = .next t →
    PathsAgreeWithTable t ∧ ReportsAgreeWithPaths t ∧ ResponsesWellFormed t

/-- R19, R24, R115, R122, R123: every step keeps the fill, the reserved count and the claim together within the store,
and traced flags and reservations where they belong. -/
def Obligations.EveryStepKeepsTheStoreWithinBound : Prop :=
  ∀ s t : State, StoreWithinBound s ∧ TraceFieldsClear s → step s = .next t →
    StoreWithinBound t ∧ TraceFieldsClear t

/-- R47, R63, R154, R156: every step keeps the sequencer within its program, the prescale count below the divisor, and
the ages of LIVE entries equal to the timestamp minus their issue stamps. -/
def Obligations.EveryStepKeepsTheCountersWithinLimits : Prop :=
  ∀ s t : State, SequencerWithinProgram s ∧ PrescaleBelowDivisor s ∧ AgesFollowTimestamp s → step s = .next t →
    SequencerWithinProgram t ∧ PrescaleBelowDivisor t ∧ AgesFollowTimestamp t

/-- R179, R180, R199: every step keeps the blocks in their power-on state while PORST_N is asserted, and the paths and
the table empty while LRST_N is. -/
def Obligations.EveryStepKeepsTheResetsInForce : Prop :=
  ∀ s t : State, HeldAtPowerOn s ∧ LinksQuiet s → step s = .next t → HeldAtPowerOn t ∧ LinksQuiet t

/-- R171: the part owes one upstream response for each request it has taken: apart from the two pin resets, a command
changes what is owed for a pair only by taking a request that carries it and by delivering a response that does. -/
def Obligations.EveryRequestIsAnsweredOnce : Prop :=
  ∀ (p : Pair) (s : State), PathsAgreeWithTable s → ResponsesWellFormed s →
    (∀ c t, exec c s = .next t → (∀ r, c ≠ .upstreamRequestTake r) → c ≠ .upstreamResponseTake → c ≠ .linkReset →
      c ≠ .powerOnReset → owed p t = owed p s)
    ∧ (∀ r t, exec (.upstreamRequestTake r) s = .next t → owed p t = owed p s + takenFor p r s)
    ∧ (∀ t, LinksUp s → exec .upstreamResponseTake s = .next t → owed p t + deliveredTo p s = owed p s)
end

