-- ==== Sys2Proof/Laws/State.lean ====
section
/-! SUPPORT. One lemma per field per update of State, true by rfl, so that no proof unfolds a record update. -/
namespace Sys2Proof.Machine

@[simp] theorem State.setOtt_ott (x : Ott) (s : State) : (s.setOtt x).ott = x := rfl
@[simp] theorem State.setOtt_mu (x : Ott) (s : State) : (s.setOtt x).mu = s.mu := rfl
@[simp] theorem State.setOtt_tsq (x : Ott) (s : State) : (s.setOtt x).tsq = s.tsq := rfl
@[simp] theorem State.setOtt_rqp (x : Ott) (s : State) : (s.setOtt x).rqp = s.rqp := rfl
@[simp] theorem State.setOtt_rsp (x : Ott) (s : State) : (s.setOtt x).rsp = s.rsp := rfl
@[simp] theorem State.setOtt_rmg (x : Ott) (s : State) : (s.setOtt x).rmg = s.rmg := rfl
@[simp] theorem State.setOtt_tcu (x : Ott) (s : State) : (s.setOtt x).tcu = s.tcu := rfl
@[simp] theorem State.setOtt_tst (x : Ott) (s : State) : (s.setOtt x).tst = s.tst := rfl
@[simp] theorem State.setOtt_ans (x : Ott) (s : State) : (s.setOtt x).ans = s.ans := rfl
@[simp] theorem State.setOtt_alc (x : Ott) (s : State) : (s.setOtt x).alc = s.alc := rfl
@[simp] theorem State.setOtt_tbs (x : Ott) (s : State) : (s.setOtt x).tbs = s.tbs := rfl
@[simp] theorem State.setOtt_pulse (x : Ott) (s : State) : (s.setOtt x).pulse = s.pulse := rfl
@[simp] theorem State.setOtt_mgp (x : Ott) (s : State) : (s.setOtt x).mgp = s.mgp := rfl
@[simp] theorem State.setOtt_pins (x : Ott) (s : State) : (s.setOtt x).pins = s.pins := rfl
@[simp] theorem State.setOtt_choices (x : Ott) (s : State) : (s.setOtt x).choices = s.choices := rfl
@[simp] theorem State.setOtt_pending (x : Ott) (s : State) : (s.setOtt x).pending = s.pending := rfl
@[simp] theorem State.setMu_ott (x : Mu) (s : State) : (s.setMu x).ott = s.ott := rfl
@[simp] theorem State.setMu_mu (x : Mu) (s : State) : (s.setMu x).mu = x := rfl
@[simp] theorem State.setMu_tsq (x : Mu) (s : State) : (s.setMu x).tsq = s.tsq := rfl
@[simp] theorem State.setMu_rqp (x : Mu) (s : State) : (s.setMu x).rqp = s.rqp := rfl
@[simp] theorem State.setMu_rsp (x : Mu) (s : State) : (s.setMu x).rsp = s.rsp := rfl
@[simp] theorem State.setMu_rmg (x : Mu) (s : State) : (s.setMu x).rmg = s.rmg := rfl
@[simp] theorem State.setMu_tcu (x : Mu) (s : State) : (s.setMu x).tcu = s.tcu := rfl
@[simp] theorem State.setMu_tst (x : Mu) (s : State) : (s.setMu x).tst = s.tst := rfl
@[simp] theorem State.setMu_ans (x : Mu) (s : State) : (s.setMu x).ans = s.ans := rfl
@[simp] theorem State.setMu_alc (x : Mu) (s : State) : (s.setMu x).alc = s.alc := rfl
@[simp] theorem State.setMu_tbs (x : Mu) (s : State) : (s.setMu x).tbs = s.tbs := rfl
@[simp] theorem State.setMu_pulse (x : Mu) (s : State) : (s.setMu x).pulse = s.pulse := rfl
@[simp] theorem State.setMu_mgp (x : Mu) (s : State) : (s.setMu x).mgp = s.mgp := rfl
@[simp] theorem State.setMu_pins (x : Mu) (s : State) : (s.setMu x).pins = s.pins := rfl
@[simp] theorem State.setMu_choices (x : Mu) (s : State) : (s.setMu x).choices = s.choices := rfl
@[simp] theorem State.setMu_pending (x : Mu) (s : State) : (s.setMu x).pending = s.pending := rfl
@[simp] theorem State.setTsq_ott (x : Tsq) (s : State) : (s.setTsq x).ott = s.ott := rfl
@[simp] theorem State.setTsq_mu (x : Tsq) (s : State) : (s.setTsq x).mu = s.mu := rfl
@[simp] theorem State.setTsq_tsq (x : Tsq) (s : State) : (s.setTsq x).tsq = x := rfl
@[simp] theorem State.setTsq_rqp (x : Tsq) (s : State) : (s.setTsq x).rqp = s.rqp := rfl
@[simp] theorem State.setTsq_rsp (x : Tsq) (s : State) : (s.setTsq x).rsp = s.rsp := rfl
@[simp] theorem State.setTsq_rmg (x : Tsq) (s : State) : (s.setTsq x).rmg = s.rmg := rfl
@[simp] theorem State.setTsq_tcu (x : Tsq) (s : State) : (s.setTsq x).tcu = s.tcu := rfl
@[simp] theorem State.setTsq_tst (x : Tsq) (s : State) : (s.setTsq x).tst = s.tst := rfl
@[simp] theorem State.setTsq_ans (x : Tsq) (s : State) : (s.setTsq x).ans = s.ans := rfl
@[simp] theorem State.setTsq_alc (x : Tsq) (s : State) : (s.setTsq x).alc = s.alc := rfl
@[simp] theorem State.setTsq_tbs (x : Tsq) (s : State) : (s.setTsq x).tbs = s.tbs := rfl
@[simp] theorem State.setTsq_pulse (x : Tsq) (s : State) : (s.setTsq x).pulse = s.pulse := rfl
@[simp] theorem State.setTsq_mgp (x : Tsq) (s : State) : (s.setTsq x).mgp = s.mgp := rfl
@[simp] theorem State.setTsq_pins (x : Tsq) (s : State) : (s.setTsq x).pins = s.pins := rfl
@[simp] theorem State.setTsq_choices (x : Tsq) (s : State) : (s.setTsq x).choices = s.choices := rfl
@[simp] theorem State.setTsq_pending (x : Tsq) (s : State) : (s.setTsq x).pending = s.pending := rfl
@[simp] theorem State.setRqp_ott (x : Rqp) (s : State) : (s.setRqp x).ott = s.ott := rfl
@[simp] theorem State.setRqp_mu (x : Rqp) (s : State) : (s.setRqp x).mu = s.mu := rfl
@[simp] theorem State.setRqp_tsq (x : Rqp) (s : State) : (s.setRqp x).tsq = s.tsq := rfl
@[simp] theorem State.setRqp_rqp (x : Rqp) (s : State) : (s.setRqp x).rqp = x := rfl
@[simp] theorem State.setRqp_rsp (x : Rqp) (s : State) : (s.setRqp x).rsp = s.rsp := rfl
@[simp] theorem State.setRqp_rmg (x : Rqp) (s : State) : (s.setRqp x).rmg = s.rmg := rfl
@[simp] theorem State.setRqp_tcu (x : Rqp) (s : State) : (s.setRqp x).tcu = s.tcu := rfl
@[simp] theorem State.setRqp_tst (x : Rqp) (s : State) : (s.setRqp x).tst = s.tst := rfl
@[simp] theorem State.setRqp_ans (x : Rqp) (s : State) : (s.setRqp x).ans = s.ans := rfl
@[simp] theorem State.setRqp_alc (x : Rqp) (s : State) : (s.setRqp x).alc = s.alc := rfl
@[simp] theorem State.setRqp_tbs (x : Rqp) (s : State) : (s.setRqp x).tbs = s.tbs := rfl
@[simp] theorem State.setRqp_pulse (x : Rqp) (s : State) : (s.setRqp x).pulse = s.pulse := rfl
@[simp] theorem State.setRqp_mgp (x : Rqp) (s : State) : (s.setRqp x).mgp = s.mgp := rfl
@[simp] theorem State.setRqp_pins (x : Rqp) (s : State) : (s.setRqp x).pins = s.pins := rfl
@[simp] theorem State.setRqp_choices (x : Rqp) (s : State) : (s.setRqp x).choices = s.choices := rfl
@[simp] theorem State.setRqp_pending (x : Rqp) (s : State) : (s.setRqp x).pending = s.pending := rfl
@[simp] theorem State.setRsp_ott (x : Rsp) (s : State) : (s.setRsp x).ott = s.ott := rfl
@[simp] theorem State.setRsp_mu (x : Rsp) (s : State) : (s.setRsp x).mu = s.mu := rfl
@[simp] theorem State.setRsp_tsq (x : Rsp) (s : State) : (s.setRsp x).tsq = s.tsq := rfl
@[simp] theorem State.setRsp_rqp (x : Rsp) (s : State) : (s.setRsp x).rqp = s.rqp := rfl
@[simp] theorem State.setRsp_rsp (x : Rsp) (s : State) : (s.setRsp x).rsp = x := rfl
@[simp] theorem State.setRsp_rmg (x : Rsp) (s : State) : (s.setRsp x).rmg = s.rmg := rfl
@[simp] theorem State.setRsp_tcu (x : Rsp) (s : State) : (s.setRsp x).tcu = s.tcu := rfl
@[simp] theorem State.setRsp_tst (x : Rsp) (s : State) : (s.setRsp x).tst = s.tst := rfl
@[simp] theorem State.setRsp_ans (x : Rsp) (s : State) : (s.setRsp x).ans = s.ans := rfl
@[simp] theorem State.setRsp_alc (x : Rsp) (s : State) : (s.setRsp x).alc = s.alc := rfl
@[simp] theorem State.setRsp_tbs (x : Rsp) (s : State) : (s.setRsp x).tbs = s.tbs := rfl
@[simp] theorem State.setRsp_pulse (x : Rsp) (s : State) : (s.setRsp x).pulse = s.pulse := rfl
@[simp] theorem State.setRsp_mgp (x : Rsp) (s : State) : (s.setRsp x).mgp = s.mgp := rfl
@[simp] theorem State.setRsp_pins (x : Rsp) (s : State) : (s.setRsp x).pins = s.pins := rfl
@[simp] theorem State.setRsp_choices (x : Rsp) (s : State) : (s.setRsp x).choices = s.choices := rfl
@[simp] theorem State.setRsp_pending (x : Rsp) (s : State) : (s.setRsp x).pending = s.pending := rfl
@[simp] theorem State.setRmg_ott (x : Rmg) (s : State) : (s.setRmg x).ott = s.ott := rfl
@[simp] theorem State.setRmg_mu (x : Rmg) (s : State) : (s.setRmg x).mu = s.mu := rfl
@[simp] theorem State.setRmg_tsq (x : Rmg) (s : State) : (s.setRmg x).tsq = s.tsq := rfl
@[simp] theorem State.setRmg_rqp (x : Rmg) (s : State) : (s.setRmg x).rqp = s.rqp := rfl
@[simp] theorem State.setRmg_rsp (x : Rmg) (s : State) : (s.setRmg x).rsp = s.rsp := rfl
@[simp] theorem State.setRmg_rmg (x : Rmg) (s : State) : (s.setRmg x).rmg = x := rfl
@[simp] theorem State.setRmg_tcu (x : Rmg) (s : State) : (s.setRmg x).tcu = s.tcu := rfl
@[simp] theorem State.setRmg_tst (x : Rmg) (s : State) : (s.setRmg x).tst = s.tst := rfl
@[simp] theorem State.setRmg_ans (x : Rmg) (s : State) : (s.setRmg x).ans = s.ans := rfl
@[simp] theorem State.setRmg_alc (x : Rmg) (s : State) : (s.setRmg x).alc = s.alc := rfl
@[simp] theorem State.setRmg_tbs (x : Rmg) (s : State) : (s.setRmg x).tbs = s.tbs := rfl
@[simp] theorem State.setRmg_pulse (x : Rmg) (s : State) : (s.setRmg x).pulse = s.pulse := rfl
@[simp] theorem State.setRmg_mgp (x : Rmg) (s : State) : (s.setRmg x).mgp = s.mgp := rfl
@[simp] theorem State.setRmg_pins (x : Rmg) (s : State) : (s.setRmg x).pins = s.pins := rfl
@[simp] theorem State.setRmg_choices (x : Rmg) (s : State) : (s.setRmg x).choices = s.choices := rfl
@[simp] theorem State.setRmg_pending (x : Rmg) (s : State) : (s.setRmg x).pending = s.pending := rfl
@[simp] theorem State.setTcu_ott (x : Tcu) (s : State) : (s.setTcu x).ott = s.ott := rfl
@[simp] theorem State.setTcu_mu (x : Tcu) (s : State) : (s.setTcu x).mu = s.mu := rfl
@[simp] theorem State.setTcu_tsq (x : Tcu) (s : State) : (s.setTcu x).tsq = s.tsq := rfl
@[simp] theorem State.setTcu_rqp (x : Tcu) (s : State) : (s.setTcu x).rqp = s.rqp := rfl
@[simp] theorem State.setTcu_rsp (x : Tcu) (s : State) : (s.setTcu x).rsp = s.rsp := rfl
@[simp] theorem State.setTcu_rmg (x : Tcu) (s : State) : (s.setTcu x).rmg = s.rmg := rfl
@[simp] theorem State.setTcu_tcu (x : Tcu) (s : State) : (s.setTcu x).tcu = x := rfl
@[simp] theorem State.setTcu_tst (x : Tcu) (s : State) : (s.setTcu x).tst = s.tst := rfl
@[simp] theorem State.setTcu_ans (x : Tcu) (s : State) : (s.setTcu x).ans = s.ans := rfl
@[simp] theorem State.setTcu_alc (x : Tcu) (s : State) : (s.setTcu x).alc = s.alc := rfl
@[simp] theorem State.setTcu_tbs (x : Tcu) (s : State) : (s.setTcu x).tbs = s.tbs := rfl
@[simp] theorem State.setTcu_pulse (x : Tcu) (s : State) : (s.setTcu x).pulse = s.pulse := rfl
@[simp] theorem State.setTcu_mgp (x : Tcu) (s : State) : (s.setTcu x).mgp = s.mgp := rfl
@[simp] theorem State.setTcu_pins (x : Tcu) (s : State) : (s.setTcu x).pins = s.pins := rfl
@[simp] theorem State.setTcu_choices (x : Tcu) (s : State) : (s.setTcu x).choices = s.choices := rfl
@[simp] theorem State.setTcu_pending (x : Tcu) (s : State) : (s.setTcu x).pending = s.pending := rfl
@[simp] theorem State.setTst_ott (x : Tst) (s : State) : (s.setTst x).ott = s.ott := rfl
@[simp] theorem State.setTst_mu (x : Tst) (s : State) : (s.setTst x).mu = s.mu := rfl
@[simp] theorem State.setTst_tsq (x : Tst) (s : State) : (s.setTst x).tsq = s.tsq := rfl
@[simp] theorem State.setTst_rqp (x : Tst) (s : State) : (s.setTst x).rqp = s.rqp := rfl
@[simp] theorem State.setTst_rsp (x : Tst) (s : State) : (s.setTst x).rsp = s.rsp := rfl
@[simp] theorem State.setTst_rmg (x : Tst) (s : State) : (s.setTst x).rmg = s.rmg := rfl
@[simp] theorem State.setTst_tcu (x : Tst) (s : State) : (s.setTst x).tcu = s.tcu := rfl
@[simp] theorem State.setTst_tst (x : Tst) (s : State) : (s.setTst x).tst = x := rfl
@[simp] theorem State.setTst_ans (x : Tst) (s : State) : (s.setTst x).ans = s.ans := rfl
@[simp] theorem State.setTst_alc (x : Tst) (s : State) : (s.setTst x).alc = s.alc := rfl
@[simp] theorem State.setTst_tbs (x : Tst) (s : State) : (s.setTst x).tbs = s.tbs := rfl
@[simp] theorem State.setTst_pulse (x : Tst) (s : State) : (s.setTst x).pulse = s.pulse := rfl
@[simp] theorem State.setTst_mgp (x : Tst) (s : State) : (s.setTst x).mgp = s.mgp := rfl
@[simp] theorem State.setTst_pins (x : Tst) (s : State) : (s.setTst x).pins = s.pins := rfl
@[simp] theorem State.setTst_choices (x : Tst) (s : State) : (s.setTst x).choices = s.choices := rfl
@[simp] theorem State.setTst_pending (x : Tst) (s : State) : (s.setTst x).pending = s.pending := rfl
@[simp] theorem State.setAns_ott (x : Ans) (s : State) : (s.setAns x).ott = s.ott := rfl
@[simp] theorem State.setAns_mu (x : Ans) (s : State) : (s.setAns x).mu = s.mu := rfl
@[simp] theorem State.setAns_tsq (x : Ans) (s : State) : (s.setAns x).tsq = s.tsq := rfl
@[simp] theorem State.setAns_rqp (x : Ans) (s : State) : (s.setAns x).rqp = s.rqp := rfl
@[simp] theorem State.setAns_rsp (x : Ans) (s : State) : (s.setAns x).rsp = s.rsp := rfl
@[simp] theorem State.setAns_rmg (x : Ans) (s : State) : (s.setAns x).rmg = s.rmg := rfl
@[simp] theorem State.setAns_tcu (x : Ans) (s : State) : (s.setAns x).tcu = s.tcu := rfl
@[simp] theorem State.setAns_tst (x : Ans) (s : State) : (s.setAns x).tst = s.tst := rfl
@[simp] theorem State.setAns_ans (x : Ans) (s : State) : (s.setAns x).ans = x := rfl
@[simp] theorem State.setAns_alc (x : Ans) (s : State) : (s.setAns x).alc = s.alc := rfl
@[simp] theorem State.setAns_tbs (x : Ans) (s : State) : (s.setAns x).tbs = s.tbs := rfl
@[simp] theorem State.setAns_pulse (x : Ans) (s : State) : (s.setAns x).pulse = s.pulse := rfl
@[simp] theorem State.setAns_mgp (x : Ans) (s : State) : (s.setAns x).mgp = s.mgp := rfl
@[simp] theorem State.setAns_pins (x : Ans) (s : State) : (s.setAns x).pins = s.pins := rfl
@[simp] theorem State.setAns_choices (x : Ans) (s : State) : (s.setAns x).choices = s.choices := rfl
@[simp] theorem State.setAns_pending (x : Ans) (s : State) : (s.setAns x).pending = s.pending := rfl
@[simp] theorem State.setAlc_ott (x : Alc) (s : State) : (s.setAlc x).ott = s.ott := rfl
@[simp] theorem State.setAlc_mu (x : Alc) (s : State) : (s.setAlc x).mu = s.mu := rfl
@[simp] theorem State.setAlc_tsq (x : Alc) (s : State) : (s.setAlc x).tsq = s.tsq := rfl
@[simp] theorem State.setAlc_rqp (x : Alc) (s : State) : (s.setAlc x).rqp = s.rqp := rfl
@[simp] theorem State.setAlc_rsp (x : Alc) (s : State) : (s.setAlc x).rsp = s.rsp := rfl
@[simp] theorem State.setAlc_rmg (x : Alc) (s : State) : (s.setAlc x).rmg = s.rmg := rfl
@[simp] theorem State.setAlc_tcu (x : Alc) (s : State) : (s.setAlc x).tcu = s.tcu := rfl
@[simp] theorem State.setAlc_tst (x : Alc) (s : State) : (s.setAlc x).tst = s.tst := rfl
@[simp] theorem State.setAlc_ans (x : Alc) (s : State) : (s.setAlc x).ans = s.ans := rfl
@[simp] theorem State.setAlc_alc (x : Alc) (s : State) : (s.setAlc x).alc = x := rfl
@[simp] theorem State.setAlc_tbs (x : Alc) (s : State) : (s.setAlc x).tbs = s.tbs := rfl
@[simp] theorem State.setAlc_pulse (x : Alc) (s : State) : (s.setAlc x).pulse = s.pulse := rfl
@[simp] theorem State.setAlc_mgp (x : Alc) (s : State) : (s.setAlc x).mgp = s.mgp := rfl
@[simp] theorem State.setAlc_pins (x : Alc) (s : State) : (s.setAlc x).pins = s.pins := rfl
@[simp] theorem State.setAlc_choices (x : Alc) (s : State) : (s.setAlc x).choices = s.choices := rfl
@[simp] theorem State.setAlc_pending (x : Alc) (s : State) : (s.setAlc x).pending = s.pending := rfl
@[simp] theorem State.setTbs_ott (x : Tbs) (s : State) : (s.setTbs x).ott = s.ott := rfl
@[simp] theorem State.setTbs_mu (x : Tbs) (s : State) : (s.setTbs x).mu = s.mu := rfl
@[simp] theorem State.setTbs_tsq (x : Tbs) (s : State) : (s.setTbs x).tsq = s.tsq := rfl
@[simp] theorem State.setTbs_rqp (x : Tbs) (s : State) : (s.setTbs x).rqp = s.rqp := rfl
@[simp] theorem State.setTbs_rsp (x : Tbs) (s : State) : (s.setTbs x).rsp = s.rsp := rfl
@[simp] theorem State.setTbs_rmg (x : Tbs) (s : State) : (s.setTbs x).rmg = s.rmg := rfl
@[simp] theorem State.setTbs_tcu (x : Tbs) (s : State) : (s.setTbs x).tcu = s.tcu := rfl
@[simp] theorem State.setTbs_tst (x : Tbs) (s : State) : (s.setTbs x).tst = s.tst := rfl
@[simp] theorem State.setTbs_ans (x : Tbs) (s : State) : (s.setTbs x).ans = s.ans := rfl
@[simp] theorem State.setTbs_alc (x : Tbs) (s : State) : (s.setTbs x).alc = s.alc := rfl
@[simp] theorem State.setTbs_tbs (x : Tbs) (s : State) : (s.setTbs x).tbs = x := rfl
@[simp] theorem State.setTbs_pulse (x : Tbs) (s : State) : (s.setTbs x).pulse = s.pulse := rfl
@[simp] theorem State.setTbs_mgp (x : Tbs) (s : State) : (s.setTbs x).mgp = s.mgp := rfl
@[simp] theorem State.setTbs_pins (x : Tbs) (s : State) : (s.setTbs x).pins = s.pins := rfl
@[simp] theorem State.setTbs_choices (x : Tbs) (s : State) : (s.setTbs x).choices = s.choices := rfl
@[simp] theorem State.setTbs_pending (x : Tbs) (s : State) : (s.setTbs x).pending = s.pending := rfl
@[simp] theorem State.setPulse_ott (x : Pulse) (s : State) : (s.setPulse x).ott = s.ott := rfl
@[simp] theorem State.setPulse_mu (x : Pulse) (s : State) : (s.setPulse x).mu = s.mu := rfl
@[simp] theorem State.setPulse_tsq (x : Pulse) (s : State) : (s.setPulse x).tsq = s.tsq := rfl
@[simp] theorem State.setPulse_rqp (x : Pulse) (s : State) : (s.setPulse x).rqp = s.rqp := rfl
@[simp] theorem State.setPulse_rsp (x : Pulse) (s : State) : (s.setPulse x).rsp = s.rsp := rfl
@[simp] theorem State.setPulse_rmg (x : Pulse) (s : State) : (s.setPulse x).rmg = s.rmg := rfl
@[simp] theorem State.setPulse_tcu (x : Pulse) (s : State) : (s.setPulse x).tcu = s.tcu := rfl
@[simp] theorem State.setPulse_tst (x : Pulse) (s : State) : (s.setPulse x).tst = s.tst := rfl
@[simp] theorem State.setPulse_ans (x : Pulse) (s : State) : (s.setPulse x).ans = s.ans := rfl
@[simp] theorem State.setPulse_alc (x : Pulse) (s : State) : (s.setPulse x).alc = s.alc := rfl
@[simp] theorem State.setPulse_tbs (x : Pulse) (s : State) : (s.setPulse x).tbs = s.tbs := rfl
@[simp] theorem State.setPulse_pulse (x : Pulse) (s : State) : (s.setPulse x).pulse = x := rfl
@[simp] theorem State.setPulse_mgp (x : Pulse) (s : State) : (s.setPulse x).mgp = s.mgp := rfl
@[simp] theorem State.setPulse_pins (x : Pulse) (s : State) : (s.setPulse x).pins = s.pins := rfl
@[simp] theorem State.setPulse_choices (x : Pulse) (s : State) : (s.setPulse x).choices = s.choices := rfl
@[simp] theorem State.setPulse_pending (x : Pulse) (s : State) : (s.setPulse x).pending = s.pending := rfl
@[simp] theorem State.setMgp_ott (x : Mgp) (s : State) : (s.setMgp x).ott = s.ott := rfl
@[simp] theorem State.setMgp_mu (x : Mgp) (s : State) : (s.setMgp x).mu = s.mu := rfl
@[simp] theorem State.setMgp_tsq (x : Mgp) (s : State) : (s.setMgp x).tsq = s.tsq := rfl
@[simp] theorem State.setMgp_rqp (x : Mgp) (s : State) : (s.setMgp x).rqp = s.rqp := rfl
@[simp] theorem State.setMgp_rsp (x : Mgp) (s : State) : (s.setMgp x).rsp = s.rsp := rfl
@[simp] theorem State.setMgp_rmg (x : Mgp) (s : State) : (s.setMgp x).rmg = s.rmg := rfl
@[simp] theorem State.setMgp_tcu (x : Mgp) (s : State) : (s.setMgp x).tcu = s.tcu := rfl
@[simp] theorem State.setMgp_tst (x : Mgp) (s : State) : (s.setMgp x).tst = s.tst := rfl
@[simp] theorem State.setMgp_ans (x : Mgp) (s : State) : (s.setMgp x).ans = s.ans := rfl
@[simp] theorem State.setMgp_alc (x : Mgp) (s : State) : (s.setMgp x).alc = s.alc := rfl
@[simp] theorem State.setMgp_tbs (x : Mgp) (s : State) : (s.setMgp x).tbs = s.tbs := rfl
@[simp] theorem State.setMgp_pulse (x : Mgp) (s : State) : (s.setMgp x).pulse = s.pulse := rfl
@[simp] theorem State.setMgp_mgp (x : Mgp) (s : State) : (s.setMgp x).mgp = x := rfl
@[simp] theorem State.setMgp_pins (x : Mgp) (s : State) : (s.setMgp x).pins = s.pins := rfl
@[simp] theorem State.setMgp_choices (x : Mgp) (s : State) : (s.setMgp x).choices = s.choices := rfl
@[simp] theorem State.setMgp_pending (x : Mgp) (s : State) : (s.setMgp x).pending = s.pending := rfl
@[simp] theorem State.setPins_ott (x : Pins) (s : State) : (s.setPins x).ott = s.ott := rfl
@[simp] theorem State.setPins_mu (x : Pins) (s : State) : (s.setPins x).mu = s.mu := rfl
@[simp] theorem State.setPins_tsq (x : Pins) (s : State) : (s.setPins x).tsq = s.tsq := rfl
@[simp] theorem State.setPins_rqp (x : Pins) (s : State) : (s.setPins x).rqp = s.rqp := rfl
@[simp] theorem State.setPins_rsp (x : Pins) (s : State) : (s.setPins x).rsp = s.rsp := rfl
@[simp] theorem State.setPins_rmg (x : Pins) (s : State) : (s.setPins x).rmg = s.rmg := rfl
@[simp] theorem State.setPins_tcu (x : Pins) (s : State) : (s.setPins x).tcu = s.tcu := rfl
@[simp] theorem State.setPins_tst (x : Pins) (s : State) : (s.setPins x).tst = s.tst := rfl
@[simp] theorem State.setPins_ans (x : Pins) (s : State) : (s.setPins x).ans = s.ans := rfl
@[simp] theorem State.setPins_alc (x : Pins) (s : State) : (s.setPins x).alc = s.alc := rfl
@[simp] theorem State.setPins_tbs (x : Pins) (s : State) : (s.setPins x).tbs = s.tbs := rfl
@[simp] theorem State.setPins_pulse (x : Pins) (s : State) : (s.setPins x).pulse = s.pulse := rfl
@[simp] theorem State.setPins_mgp (x : Pins) (s : State) : (s.setPins x).mgp = s.mgp := rfl
@[simp] theorem State.setPins_pins (x : Pins) (s : State) : (s.setPins x).pins = x := rfl
@[simp] theorem State.setPins_choices (x : Pins) (s : State) : (s.setPins x).choices = s.choices := rfl
@[simp] theorem State.setPins_pending (x : Pins) (s : State) : (s.setPins x).pending = s.pending := rfl
@[simp] theorem State.setChoices_ott (x : Nat) (s : State) : (s.setChoices x).ott = s.ott := rfl
@[simp] theorem State.setChoices_mu (x : Nat) (s : State) : (s.setChoices x).mu = s.mu := rfl
@[simp] theorem State.setChoices_tsq (x : Nat) (s : State) : (s.setChoices x).tsq = s.tsq := rfl
@[simp] theorem State.setChoices_rqp (x : Nat) (s : State) : (s.setChoices x).rqp = s.rqp := rfl
@[simp] theorem State.setChoices_rsp (x : Nat) (s : State) : (s.setChoices x).rsp = s.rsp := rfl
@[simp] theorem State.setChoices_rmg (x : Nat) (s : State) : (s.setChoices x).rmg = s.rmg := rfl
@[simp] theorem State.setChoices_tcu (x : Nat) (s : State) : (s.setChoices x).tcu = s.tcu := rfl
@[simp] theorem State.setChoices_tst (x : Nat) (s : State) : (s.setChoices x).tst = s.tst := rfl
@[simp] theorem State.setChoices_ans (x : Nat) (s : State) : (s.setChoices x).ans = s.ans := rfl
@[simp] theorem State.setChoices_alc (x : Nat) (s : State) : (s.setChoices x).alc = s.alc := rfl
@[simp] theorem State.setChoices_tbs (x : Nat) (s : State) : (s.setChoices x).tbs = s.tbs := rfl
@[simp] theorem State.setChoices_pulse (x : Nat) (s : State) : (s.setChoices x).pulse = s.pulse := rfl
@[simp] theorem State.setChoices_mgp (x : Nat) (s : State) : (s.setChoices x).mgp = s.mgp := rfl
@[simp] theorem State.setChoices_pins (x : Nat) (s : State) : (s.setChoices x).pins = s.pins := rfl
@[simp] theorem State.setChoices_choices (x : Nat) (s : State) : (s.setChoices x).choices = x := rfl
@[simp] theorem State.setChoices_pending (x : Nat) (s : State) : (s.setChoices x).pending = s.pending := rfl
@[simp] theorem State.setPending_ott (x : List Instr) (s : State) : (s.setPending x).ott = s.ott := rfl
@[simp] theorem State.setPending_mu (x : List Instr) (s : State) : (s.setPending x).mu = s.mu := rfl
@[simp] theorem State.setPending_tsq (x : List Instr) (s : State) : (s.setPending x).tsq = s.tsq := rfl
@[simp] theorem State.setPending_rqp (x : List Instr) (s : State) : (s.setPending x).rqp = s.rqp := rfl
@[simp] theorem State.setPending_rsp (x : List Instr) (s : State) : (s.setPending x).rsp = s.rsp := rfl
@[simp] theorem State.setPending_rmg (x : List Instr) (s : State) : (s.setPending x).rmg = s.rmg := rfl
@[simp] theorem State.setPending_tcu (x : List Instr) (s : State) : (s.setPending x).tcu = s.tcu := rfl
@[simp] theorem State.setPending_tst (x : List Instr) (s : State) : (s.setPending x).tst = s.tst := rfl
@[simp] theorem State.setPending_ans (x : List Instr) (s : State) : (s.setPending x).ans = s.ans := rfl
@[simp] theorem State.setPending_alc (x : List Instr) (s : State) : (s.setPending x).alc = s.alc := rfl
@[simp] theorem State.setPending_tbs (x : List Instr) (s : State) : (s.setPending x).tbs = s.tbs := rfl
@[simp] theorem State.setPending_pulse (x : List Instr) (s : State) : (s.setPending x).pulse = s.pulse := rfl
@[simp] theorem State.setPending_mgp (x : List Instr) (s : State) : (s.setPending x).mgp = s.mgp := rfl
@[simp] theorem State.setPending_pins (x : List Instr) (s : State) : (s.setPending x).pins = s.pins := rfl
@[simp] theorem State.setPending_choices (x : List Instr) (s : State) : (s.setPending x).choices = s.choices := rfl
@[simp] theorem State.setPending_pending (x : List Instr) (s : State) : (s.setPending x).pending = x := rfl

end Sys2Proof.Machine
end

