-- ==== Sys2Proof/Laws/SharedFrames.lean ====
section
/-! SUPPORT. The frame of every shared operation of Flags.lean and Ops.lean: the blocks that it leaves as they are,
whatever it does in the others. -/
namespace Sys2Proof.Machine

/-- What one member of a fold keeps, the fold keeps. -/
theorem foldl_kept {α β : Type} (f : β → α → β) (P : β → Prop) (h : ∀ t a, P t → P (f t a)) :
    ∀ (l : List α) (t : β), P t → P (l.foldl f t)
  | [], _, ht => ht
  | a :: l, t, ht => foldl_kept f P h l (f t a) (h t a ht)

@[simp] theorem setEntry_frame (n : Fin 64) (e : Entry) (s : State) :
    (setEntry n e s).mu = s.mu ∧ (setEntry n e s).tsq = s.tsq ∧ (setEntry n e s).rqp = s.rqp
    ∧ (setEntry n e s).rsp = s.rsp ∧ (setEntry n e s).rmg = s.rmg ∧ (setEntry n e s).tcu = s.tcu
    ∧ (setEntry n e s).tst = s.tst ∧ (setEntry n e s).ans = s.ans ∧ (setEntry n e s).alc = s.alc
    ∧ (setEntry n e s).tbs = s.tbs ∧ (setEntry n e s).pulse = s.pulse ∧ (setEntry n e s).mgp = s.mgp
    ∧ (setEntry n e s).pins = s.pins ∧ (setEntry n e s).choices = s.choices
    ∧ (setEntry n e s).pending = s.pending := by
  simp [setEntry]

@[simp] theorem mapEntries_frame (f : Entry → Entry) (s : State) :
    (mapEntries f s).mu = s.mu ∧ (mapEntries f s).tsq = s.tsq ∧ (mapEntries f s).rqp = s.rqp
    ∧ (mapEntries f s).rsp = s.rsp ∧ (mapEntries f s).rmg = s.rmg ∧ (mapEntries f s).tcu = s.tcu
    ∧ (mapEntries f s).tst = s.tst ∧ (mapEntries f s).ans = s.ans ∧ (mapEntries f s).alc = s.alc
    ∧ (mapEntries f s).tbs = s.tbs ∧ (mapEntries f s).pulse = s.pulse ∧ (mapEntries f s).mgp = s.mgp
    ∧ (mapEntries f s).pins = s.pins ∧ (mapEntries f s).choices = s.choices
    ∧ (mapEntries f s).pending = s.pending := by
  simp [mapEntries]

@[simp] theorem raise_frame (c : Cause) (s : State) :
    (raise c s).ott = s.ott ∧ (raise c s).mu = s.mu ∧ (raise c s).tsq = s.tsq ∧ (raise c s).rqp = s.rqp
    ∧ (raise c s).rsp = s.rsp ∧ (raise c s).rmg = s.rmg ∧ (raise c s).tcu = s.tcu ∧ (raise c s).tst = s.tst
    ∧ (raise c s).ans = s.ans ∧ (raise c s).tbs = s.tbs ∧ (raise c s).pulse = s.pulse ∧ (raise c s).mgp = s.mgp
    ∧ (raise c s).pins = s.pins ∧ (raise c s).choices = s.choices ∧ (raise c s).pending = s.pending := by
  simp [raise]

@[simp] theorem raiseIf_frame (b : Bool) (c : Cause) (s : State) :
    (raiseIf b c s).ott = s.ott ∧ (raiseIf b c s).mu = s.mu ∧ (raiseIf b c s).tsq = s.tsq
    ∧ (raiseIf b c s).rqp = s.rqp ∧ (raiseIf b c s).rsp = s.rsp ∧ (raiseIf b c s).rmg = s.rmg
    ∧ (raiseIf b c s).tcu = s.tcu ∧ (raiseIf b c s).tst = s.tst ∧ (raiseIf b c s).ans = s.ans
    ∧ (raiseIf b c s).tbs = s.tbs ∧ (raiseIf b c s).pulse = s.pulse ∧ (raiseIf b c s).mgp = s.mgp
    ∧ (raiseIf b c s).pins = s.pins ∧ (raiseIf b c s).choices = s.choices ∧ (raiseIf b c s).pending = s.pending := by
  cases b <;> simp [raiseIf]

@[simp] theorem acknowledge_frame (x : BitVec 6) (s : State) :
    (acknowledge x s).ott = s.ott ∧ (acknowledge x s).mu = s.mu ∧ (acknowledge x s).tsq = s.tsq
    ∧ (acknowledge x s).rqp = s.rqp ∧ (acknowledge x s).rsp = s.rsp ∧ (acknowledge x s).rmg = s.rmg
    ∧ (acknowledge x s).tcu = s.tcu ∧ (acknowledge x s).tst = s.tst ∧ (acknowledge x s).ans = s.ans
    ∧ (acknowledge x s).tbs = s.tbs ∧ (acknowledge x s).pulse = s.pulse ∧ (acknowledge x s).mgp = s.mgp
    ∧ (acknowledge x s).pins = s.pins ∧ (acknowledge x s).choices = s.choices
    ∧ (acknowledge x s).pending = s.pending := by
  simp [acknowledge]

@[simp] theorem recordHits_frame (h : Byte) (s : State) :
    (recordHits h s).ott = s.ott ∧ (recordHits h s).tsq = s.tsq ∧ (recordHits h s).rqp = s.rqp
    ∧ (recordHits h s).rsp = s.rsp ∧ (recordHits h s).rmg = s.rmg ∧ (recordHits h s).tcu = s.tcu
    ∧ (recordHits h s).tst = s.tst ∧ (recordHits h s).ans = s.ans ∧ (recordHits h s).alc = s.alc
    ∧ (recordHits h s).tbs = s.tbs ∧ (recordHits h s).pulse = s.pulse ∧ (recordHits h s).mgp = s.mgp
    ∧ (recordHits h s).pins = s.pins ∧ (recordHits h s).choices = s.choices
    ∧ (recordHits h s).pending = s.pending := by
  simp [recordHits]

@[simp] theorem clearMatches_frame (s : State) :
    (clearMatches s).ott = s.ott ∧ (clearMatches s).tsq = s.tsq ∧ (clearMatches s).rqp = s.rqp
    ∧ (clearMatches s).rsp = s.rsp ∧ (clearMatches s).rmg = s.rmg ∧ (clearMatches s).tcu = s.tcu
    ∧ (clearMatches s).tst = s.tst ∧ (clearMatches s).ans = s.ans ∧ (clearMatches s).alc = s.alc
    ∧ (clearMatches s).tbs = s.tbs ∧ (clearMatches s).pulse = s.pulse ∧ (clearMatches s).mgp = s.mgp
    ∧ (clearMatches s).pins = s.pins ∧ (clearMatches s).choices = s.choices
    ∧ (clearMatches s).pending = s.pending := by
  simp [clearMatches]

@[simp] theorem recordAnomaly_frame (a : Anomaly) (s : State) :
    (recordAnomaly a s).ott = s.ott ∧ (recordAnomaly a s).mu = s.mu ∧ (recordAnomaly a s).tsq = s.tsq
    ∧ (recordAnomaly a s).rqp = s.rqp ∧ (recordAnomaly a s).rsp = s.rsp ∧ (recordAnomaly a s).rmg = s.rmg
    ∧ (recordAnomaly a s).tcu = s.tcu ∧ (recordAnomaly a s).tst = s.tst ∧ (recordAnomaly a s).alc = s.alc
    ∧ (recordAnomaly a s).tbs = s.tbs ∧ (recordAnomaly a s).pulse = s.pulse ∧ (recordAnomaly a s).mgp = s.mgp
    ∧ (recordAnomaly a s).pins = s.pins ∧ (recordAnomaly a s).choices = s.choices
    ∧ (recordAnomaly a s).pending = s.pending := by
  simp [recordAnomaly]

@[simp] theorem clearSummary_frame (s : State) :
    (clearSummary s).ott = s.ott ∧ (clearSummary s).mu = s.mu ∧ (clearSummary s).tsq = s.tsq
    ∧ (clearSummary s).rqp = s.rqp ∧ (clearSummary s).rsp = s.rsp ∧ (clearSummary s).rmg = s.rmg
    ∧ (clearSummary s).tcu = s.tcu ∧ (clearSummary s).tst = s.tst ∧ (clearSummary s).alc = s.alc
    ∧ (clearSummary s).tbs = s.tbs ∧ (clearSummary s).pulse = s.pulse ∧ (clearSummary s).mgp = s.mgp
    ∧ (clearSummary s).pins = s.pins ∧ (clearSummary s).choices = s.choices
    ∧ (clearSummary s).pending = s.pending := by
  simp [clearSummary]

@[simp] theorem appendGroup_frame (g : List Record) (b : Nat) (s : State) :
    (appendGroup g b s).ott = s.ott ∧ (appendGroup g b s).mu = s.mu ∧ (appendGroup g b s).tsq = s.tsq
    ∧ (appendGroup g b s).rqp = s.rqp ∧ (appendGroup g b s).rsp = s.rsp ∧ (appendGroup g b s).rmg = s.rmg
    ∧ (appendGroup g b s).tcu = s.tcu ∧ (appendGroup g b s).ans = s.ans ∧ (appendGroup g b s).tbs = s.tbs
    ∧ (appendGroup g b s).pulse = s.pulse ∧ (appendGroup g b s).mgp = s.mgp ∧ (appendGroup g b s).pins = s.pins
    ∧ (appendGroup g b s).choices = s.choices ∧ (appendGroup g b s).pending = s.pending := by
  simp [appendGroup]

@[simp] theorem ringTake_frame (g : List Record) (s : State) :
    ((ringTake g s).2).ott = s.ott ∧ ((ringTake g s).2).mu = s.mu ∧ ((ringTake g s).2).tsq = s.tsq
    ∧ ((ringTake g s).2).rqp = s.rqp ∧ ((ringTake g s).2).rsp = s.rsp ∧ ((ringTake g s).2).rmg = s.rmg
    ∧ ((ringTake g s).2).tcu = s.tcu ∧ ((ringTake g s).2).ans = s.ans ∧ ((ringTake g s).2).tbs = s.tbs
    ∧ ((ringTake g s).2).pulse = s.pulse ∧ ((ringTake g s).2).mgp = s.mgp ∧ ((ringTake g s).2).pins = s.pins
    ∧ ((ringTake g s).2).choices = s.choices ∧ ((ringTake g s).2).pending = s.pending := by
  unfold ringTake; (try dsimp only); (repeat' split) <;> simp

@[simp] theorem stopTake_frame (g : List Record) (s : State) :
    ((stopTake g s).2).ott = s.ott ∧ ((stopTake g s).2).mu = s.mu ∧ ((stopTake g s).2).tsq = s.tsq
    ∧ ((stopTake g s).2).rqp = s.rqp ∧ ((stopTake g s).2).rsp = s.rsp ∧ ((stopTake g s).2).rmg = s.rmg
    ∧ ((stopTake g s).2).tcu = s.tcu ∧ ((stopTake g s).2).ans = s.ans ∧ ((stopTake g s).2).tbs = s.tbs
    ∧ ((stopTake g s).2).pulse = s.pulse ∧ ((stopTake g s).2).mgp = s.mgp ∧ ((stopTake g s).2).pins = s.pins
    ∧ ((stopTake g s).2).choices = s.choices ∧ ((stopTake g s).2).pending = s.pending := by
  unfold stopTake; split <;> simp

@[simp] theorem dropTake_frame (g : List Record) (s : State) :
    ((dropTake g s).2).ott = s.ott ∧ ((dropTake g s).2).mu = s.mu ∧ ((dropTake g s).2).tsq = s.tsq
    ∧ ((dropTake g s).2).rqp = s.rqp ∧ ((dropTake g s).2).rsp = s.rsp ∧ ((dropTake g s).2).rmg = s.rmg
    ∧ ((dropTake g s).2).tcu = s.tcu ∧ ((dropTake g s).2).ans = s.ans ∧ ((dropTake g s).2).tbs = s.tbs
    ∧ ((dropTake g s).2).pulse = s.pulse ∧ ((dropTake g s).2).mgp = s.mgp ∧ ((dropTake g s).2).pins = s.pins
    ∧ ((dropTake g s).2).choices = s.choices ∧ ((dropTake g s).2).pending = s.pending := by
  unfold dropTake; split <;> simp

@[simp] theorem stallTake_frame (g : List Record) (k : Nat) (b : Backing) (s : State) :
    ((stallTake g k b s).2).mu = s.mu ∧ ((stallTake g k b s).2).tsq = s.tsq
    ∧ ((stallTake g k b s).2).rqp = s.rqp ∧ ((stallTake g k b s).2).rsp = s.rsp
    ∧ ((stallTake g k b s).2).rmg = s.rmg ∧ ((stallTake g k b s).2).tcu = s.tcu
    ∧ ((stallTake g k b s).2).ans = s.ans ∧ ((stallTake g k b s).2).tbs = s.tbs
    ∧ ((stallTake g k b s).2).pulse = s.pulse ∧ ((stallTake g k b s).2).mgp = s.mgp
    ∧ ((stallTake g k b s).2).pins = s.pins ∧ ((stallTake g k b s).2).choices = s.choices
    ∧ ((stallTake g k b s).2).pending = s.pending := by
  unfold stallTake; split <;> split <;> simp

@[simp] theorem storeTake_frame (g : List Record) (k : Nat) (b : Backing) (s : State) :
    ((storeTake g k b s).2).mu = s.mu ∧ ((storeTake g k b s).2).tsq = s.tsq
    ∧ ((storeTake g k b s).2).rqp = s.rqp ∧ ((storeTake g k b s).2).rsp = s.rsp
    ∧ ((storeTake g k b s).2).rmg = s.rmg ∧ ((storeTake g k b s).2).tcu = s.tcu
    ∧ ((storeTake g k b s).2).ans = s.ans ∧ ((storeTake g k b s).2).tbs = s.tbs
    ∧ ((storeTake g k b s).2).pulse = s.pulse ∧ ((storeTake g k b s).2).mgp = s.mgp
    ∧ ((storeTake g k b s).2).pins = s.pins ∧ ((storeTake g k b s).2).choices = s.choices
    ∧ ((storeTake g k b s).2).pending = s.pending := by
  unfold storeTake; split <;> simp

@[simp] theorem storeTake_unbacked_frame (g : List Record) (k : Nat) (s : State) :
    ((storeTake g k .unbacked s).2).ott = s.ott := by
  unfold storeTake; split <;> simp [stallTake]; split <;> simp

@[simp] theorem storeTake_claim_frame (g : List Record) (k c : Nat) (s : State) :
    ((storeTake g k (.claim c) s).2).ott = s.ott := by
  unfold storeTake; split <;> simp [stallTake]; split <;> simp

@[simp] theorem offerRecord_frame (r : Record) (b : Backing) (f : Option (Addr × Byte)) (s : State) :
    ((offerRecord r b f s).2).mu = s.mu ∧ ((offerRecord r b f s).2).tsq = s.tsq
    ∧ ((offerRecord r b f s).2).rqp = s.rqp ∧ ((offerRecord r b f s).2).rsp = s.rsp
    ∧ ((offerRecord r b f s).2).rmg = s.rmg ∧ ((offerRecord r b f s).2).ans = s.ans
    ∧ ((offerRecord r b f s).2).tbs = s.tbs ∧ ((offerRecord r b f s).2).pulse = s.pulse
    ∧ ((offerRecord r b f s).2).mgp = s.mgp ∧ ((offerRecord r b f s).2).pins = s.pins
    ∧ ((offerRecord r b f s).2).choices = s.choices ∧ ((offerRecord r b f s).2).pending = s.pending := by
  unfold offerRecord; (try dsimp only); (repeat' split) <;> simp

@[simp] theorem offerRecord_unbacked_frame (r : Record) (f : Option (Addr × Byte)) (s : State) :
    ((offerRecord r .unbacked f s).2).ott = s.ott := by
  unfold offerRecord; (try dsimp only); (repeat' split) <;> simp

@[simp] theorem offerRecord_claim_frame (r : Record) (c : Nat) (f : Option (Addr × Byte)) (s : State) :
    ((offerRecord r (.claim c) f s).2).ott = s.ott := by
  unfold offerRecord; (try dsimp only); (repeat' split) <;> simp

@[simp] theorem offerEvent_frame (r : Record) (s : State) :
    (offerEvent r s).ott = s.ott ∧ (offerEvent r s).mu = s.mu ∧ (offerEvent r s).tsq = s.tsq
    ∧ (offerEvent r s).rqp = s.rqp ∧ (offerEvent r s).rsp = s.rsp ∧ (offerEvent r s).rmg = s.rmg
    ∧ (offerEvent r s).ans = s.ans ∧ (offerEvent r s).tbs = s.tbs ∧ (offerEvent r s).pulse = s.pulse
    ∧ (offerEvent r s).mgp = s.mgp ∧ (offerEvent r s).pins = s.pins ∧ (offerEvent r s).choices = s.choices
    ∧ (offerEvent r s).pending = s.pending := by
  simp [offerEvent]

@[simp] theorem takeAnomaly_frame (a : Anomaly) (s : State) :
    (takeAnomaly a s).ott = s.ott ∧ (takeAnomaly a s).mu = s.mu ∧ (takeAnomaly a s).rqp = s.rqp
    ∧ (takeAnomaly a s).rsp = s.rsp ∧ (takeAnomaly a s).rmg = s.rmg ∧ (takeAnomaly a s).tbs = s.tbs
    ∧ (takeAnomaly a s).pulse = s.pulse ∧ (takeAnomaly a s).mgp = s.mgp ∧ (takeAnomaly a s).pins = s.pins
    ∧ (takeAnomaly a s).choices = s.choices ∧ (takeAnomaly a s).pending = s.pending := by
  unfold takeAnomaly; dsimp only; split <;> simp

@[simp] theorem enqueue_frame (r : UpResponse) (s : State) :
    (enqueue r s).ott = s.ott ∧ (enqueue r s).mu = s.mu ∧ (enqueue r s).tsq = s.tsq ∧ (enqueue r s).rqp = s.rqp
    ∧ (enqueue r s).rsp = s.rsp ∧ (enqueue r s).tcu = s.tcu ∧ (enqueue r s).tst = s.tst
    ∧ (enqueue r s).ans = s.ans ∧ (enqueue r s).alc = s.alc ∧ (enqueue r s).tbs = s.tbs
    ∧ (enqueue r s).pulse = s.pulse ∧ (enqueue r s).mgp = s.mgp ∧ (enqueue r s).pins = s.pins
    ∧ (enqueue r s).choices = s.choices ∧ (enqueue r s).pending = s.pending := by
  simp [enqueue]

@[simp] theorem setTxn_frame (t : Option RqpTxn) (s : State) :
    (setTxn t s).ott = s.ott ∧ (setTxn t s).mu = s.mu ∧ (setTxn t s).tsq = s.tsq ∧ (setTxn t s).rsp = s.rsp
    ∧ (setTxn t s).rmg = s.rmg ∧ (setTxn t s).tcu = s.tcu ∧ (setTxn t s).tst = s.tst ∧ (setTxn t s).ans = s.ans
    ∧ (setTxn t s).alc = s.alc ∧ (setTxn t s).tbs = s.tbs ∧ (setTxn t s).pulse = s.pulse
    ∧ (setTxn t s).mgp = s.mgp ∧ (setTxn t s).pins = s.pins ∧ (setTxn t s).choices = s.choices
    ∧ (setTxn t s).pending = s.pending := by
  simp [setTxn]

@[simp] theorem setCapture_frame (c : Option Capture) (s : State) :
    (setCapture c s).ott = s.ott ∧ (setCapture c s).mu = s.mu ∧ (setCapture c s).tsq = s.tsq
    ∧ (setCapture c s).rqp = s.rqp ∧ (setCapture c s).rsp = s.rsp ∧ (setCapture c s).rmg = s.rmg
    ∧ (setCapture c s).tst = s.tst ∧ (setCapture c s).ans = s.ans ∧ (setCapture c s).alc = s.alc
    ∧ (setCapture c s).tbs = s.tbs ∧ (setCapture c s).pulse = s.pulse ∧ (setCapture c s).mgp = s.mgp
    ∧ (setCapture c s).pins = s.pins ∧ (setCapture c s).choices = s.choices
    ∧ (setCapture c s).pending = s.pending := by
  simp [setCapture]

@[simp] theorem grantClaim_frame (s : State) :
    (grantClaim s).ott = s.ott ∧ (grantClaim s).mu = s.mu ∧ (grantClaim s).tsq = s.tsq
    ∧ (grantClaim s).rqp = s.rqp ∧ (grantClaim s).rsp = s.rsp ∧ (grantClaim s).rmg = s.rmg
    ∧ (grantClaim s).tst = s.tst ∧ (grantClaim s).ans = s.ans ∧ (grantClaim s).alc = s.alc
    ∧ (grantClaim s).tbs = s.tbs ∧ (grantClaim s).pulse = s.pulse ∧ (grantClaim s).mgp = s.mgp
    ∧ (grantClaim s).pins = s.pins ∧ (grantClaim s).choices = s.choices ∧ (grantClaim s).pending = s.pending := by
  unfold grantClaim; (try dsimp only); (repeat' split) <;> simp

@[simp] theorem beginOffer_frame (t : RqpTxn) (s : State) :
    (beginOffer t s).ott = s.ott ∧ (beginOffer t s).mu = s.mu ∧ (beginOffer t s).tsq = s.tsq
    ∧ (beginOffer t s).rsp = s.rsp ∧ (beginOffer t s).rmg = s.rmg ∧ (beginOffer t s).tcu = s.tcu
    ∧ (beginOffer t s).tst = s.tst ∧ (beginOffer t s).ans = s.ans ∧ (beginOffer t s).alc = s.alc
    ∧ (beginOffer t s).tbs = s.tbs ∧ (beginOffer t s).pulse = s.pulse ∧ (beginOffer t s).mgp = s.mgp
    ∧ (beginOffer t s).pins = s.pins ∧ (beginOffer t s).choices = s.choices
    ∧ (beginOffer t s).pending = s.pending := by
  unfold beginOffer; split <;> simp

@[simp] theorem settleRoom_frame (s : State) :
    (settleRoom s).ott = s.ott ∧ (settleRoom s).mu = s.mu ∧ (settleRoom s).tsq = s.tsq
    ∧ (settleRoom s).rsp = s.rsp ∧ (settleRoom s).rmg = s.rmg ∧ (settleRoom s).tst = s.tst
    ∧ (settleRoom s).ans = s.ans ∧ (settleRoom s).alc = s.alc ∧ (settleRoom s).tbs = s.tbs
    ∧ (settleRoom s).pulse = s.pulse ∧ (settleRoom s).mgp = s.mgp ∧ (settleRoom s).pins = s.pins
    ∧ (settleRoom s).choices = s.choices ∧ (settleRoom s).pending = s.pending := by
  unfold settleRoom; (try dsimp only); (repeat' split) <;> simp

@[simp] theorem cancelCapture_frame (s : State) :
    (cancelCapture s).ott = s.ott ∧ (cancelCapture s).mu = s.mu ∧ (cancelCapture s).tsq = s.tsq
    ∧ (cancelCapture s).rsp = s.rsp ∧ (cancelCapture s).rmg = s.rmg ∧ (cancelCapture s).tst = s.tst
    ∧ (cancelCapture s).ans = s.ans ∧ (cancelCapture s).alc = s.alc ∧ (cancelCapture s).tbs = s.tbs
    ∧ (cancelCapture s).pulse = s.pulse ∧ (cancelCapture s).mgp = s.mgp ∧ (cancelCapture s).pins = s.pins
    ∧ (cancelCapture s).choices = s.choices ∧ (cancelCapture s).pending = s.pending := by
  unfold cancelCapture; (try dsimp only); (repeat' split) <;> simp

@[simp] theorem decideCapture_frame (t : RqpTxn) (s : State) :
    (decideCapture t s).ott = s.ott ∧ (decideCapture t s).mu = s.mu ∧ (decideCapture t s).tsq = s.tsq
    ∧ (decideCapture t s).rqp = s.rqp ∧ (decideCapture t s).rsp = s.rsp ∧ (decideCapture t s).rmg = s.rmg
    ∧ (decideCapture t s).tst = s.tst ∧ (decideCapture t s).ans = s.ans ∧ (decideCapture t s).alc = s.alc
    ∧ (decideCapture t s).tbs = s.tbs ∧ (decideCapture t s).pulse = s.pulse ∧ (decideCapture t s).mgp = s.mgp
    ∧ (decideCapture t s).pins = s.pins ∧ (decideCapture t s).choices = s.choices
    ∧ (decideCapture t s).pending = s.pending := by
  simp [decideCapture]

@[simp] theorem expireReport_frame (n : Fin 64) (s : State) :
    (expireReport n s).mu = s.mu ∧ (expireReport n s).rqp = s.rqp ∧ (expireReport n s).rsp = s.rsp
    ∧ (expireReport n s).rmg = s.rmg ∧ (expireReport n s).tbs = s.tbs ∧ (expireReport n s).pulse = s.pulse
    ∧ (expireReport n s).mgp = s.mgp ∧ (expireReport n s).pins = s.pins ∧ (expireReport n s).choices = s.choices
    ∧ (expireReport n s).pending = s.pending := by
  unfold expireReport; split <;> simp

@[simp] theorem timeoutRecord_frame (n : Fin 64) (s : State) :
    (timeoutRecord n s).mu = s.mu ∧ (timeoutRecord n s).tsq = s.tsq ∧ (timeoutRecord n s).rsp = s.rsp
    ∧ (timeoutRecord n s).rmg = s.rmg ∧ (timeoutRecord n s).ans = s.ans ∧ (timeoutRecord n s).tbs = s.tbs
    ∧ (timeoutRecord n s).pulse = s.pulse ∧ (timeoutRecord n s).mgp = s.mgp ∧ (timeoutRecord n s).pins = s.pins
    ∧ (timeoutRecord n s).choices = s.choices ∧ (timeoutRecord n s).pending = s.pending := by
  unfold timeoutRecord; dsimp only; split <;> simp

@[simp] theorem timeoutAnomaly_frame (n : Fin 64) (e : Entry) (s : State) :
    (timeoutAnomaly n e s).ott = s.ott ∧ (timeoutAnomaly n e s).mu = s.mu ∧ (timeoutAnomaly n e s).rqp = s.rqp
    ∧ (timeoutAnomaly n e s).rsp = s.rsp ∧ (timeoutAnomaly n e s).rmg = s.rmg
    ∧ (timeoutAnomaly n e s).tbs = s.tbs ∧ (timeoutAnomaly n e s).pulse = s.pulse
    ∧ (timeoutAnomaly n e s).mgp = s.mgp ∧ (timeoutAnomaly n e s).pins = s.pins
    ∧ (timeoutAnomaly n e s).choices = s.choices ∧ (timeoutAnomaly n e s).pending = s.pending := by
  unfold timeoutAnomaly; split <;> simp

@[simp] theorem abandon_frame (n : Fin 64) (s : State) :
    (abandon n s).mu = s.mu ∧ (abandon n s).rsp = s.rsp ∧ (abandon n s).tbs = s.tbs
    ∧ (abandon n s).pulse = s.pulse ∧ (abandon n s).mgp = s.mgp ∧ (abandon n s).pins = s.pins
    ∧ (abandon n s).pending = s.pending := by
  unfold abandon; (try dsimp only); (repeat' split) <;> simp

@[simp] theorem claimFor_frame (s : State) (n : Fin 64) :
    (claimFor s n).mu = s.mu ∧ (claimFor s n).rsp = s.rsp ∧ (claimFor s n).tbs = s.tbs
    ∧ (claimFor s n).pulse = s.pulse ∧ (claimFor s n).mgp = s.mgp ∧ (claimFor s n).pins = s.pins
    ∧ (claimFor s n).pending = s.pending := by
  unfold claimFor; split <;> simp

@[simp] theorem makeClaims_frame (s : State) :
    (makeClaims s).mu = s.mu ∧ (makeClaims s).rsp = s.rsp ∧ (makeClaims s).tbs = s.tbs
    ∧ (makeClaims s).pulse = s.pulse ∧ (makeClaims s).mgp = s.mgp ∧ (makeClaims s).pins = s.pins
    ∧ (makeClaims s).pending = s.pending := by
  exact foldl_kept claimFor (fun t => t.mu = s.mu ∧ t.rsp = s.rsp ∧ t.tbs = s.tbs ∧ t.pulse = s.pulse ∧ t.mgp = s.mgp ∧ t.pins = s.pins ∧ t.pending = s.pending) (fun t n h => by simpa using h) slotNumbers s (by simp)

@[simp] theorem claimKeepingOne_frame (s : State) (n : Fin 64) :
    (claimKeepingOne s n).mu = s.mu ∧ (claimKeepingOne s n).rsp = s.rsp
    ∧ (claimKeepingOne s n).tbs = s.tbs ∧ (claimKeepingOne s n).pulse = s.pulse
    ∧ (claimKeepingOne s n).mgp = s.mgp ∧ (claimKeepingOne s n).pins = s.pins
    ∧ (claimKeepingOne s n).pending = s.pending := by
  unfold claimKeepingOne; split <;> simp

@[simp] theorem makeClaimsKeepingOne_frame (s : State) :
    (makeClaimsKeepingOne s).mu = s.mu ∧ (makeClaimsKeepingOne s).rsp = s.rsp
    ∧ (makeClaimsKeepingOne s).tbs = s.tbs ∧ (makeClaimsKeepingOne s).pulse = s.pulse
    ∧ (makeClaimsKeepingOne s).mgp = s.mgp ∧ (makeClaimsKeepingOne s).pins = s.pins
    ∧ (makeClaimsKeepingOne s).pending = s.pending := by
  exact foldl_kept claimKeepingOne (fun t => t.mu = s.mu ∧ t.rsp = s.rsp ∧ t.tbs = s.tbs ∧ t.pulse = s.pulse ∧ t.mgp = s.mgp ∧ t.pins = s.pins ∧ t.pending = s.pending) (fun t n h => by simpa using h) slotNumbers s (by simp)

@[simp] theorem claimAtReport_frame (s : State) :
    (claimAtReport s).mu = s.mu ∧ (claimAtReport s).rsp = s.rsp
    ∧ (claimAtReport s).tbs = s.tbs ∧ (claimAtReport s).pulse = s.pulse
    ∧ (claimAtReport s).mgp = s.mgp ∧ (claimAtReport s).pins = s.pins
    ∧ (claimAtReport s).pending = s.pending := by
  unfold claimAtReport; (try dsimp only); (repeat' split) <;> simp

@[simp] theorem releaseFlag_frame (s : State) :
    (releaseFlag s).ott = s.ott ∧ (releaseFlag s).mu = s.mu ∧ (releaseFlag s).tsq = s.tsq
    ∧ (releaseFlag s).rsp = s.rsp ∧ (releaseFlag s).rmg = s.rmg ∧ (releaseFlag s).tcu = s.tcu
    ∧ (releaseFlag s).tst = s.tst ∧ (releaseFlag s).ans = s.ans ∧ (releaseFlag s).alc = s.alc
    ∧ (releaseFlag s).tbs = s.tbs ∧ (releaseFlag s).pulse = s.pulse ∧ (releaseFlag s).mgp = s.mgp
    ∧ (releaseFlag s).pins = s.pins ∧ (releaseFlag s).choices = s.choices ∧ (releaseFlag s).pending = s.pending := by
  simp [releaseFlag]

@[simp] theorem hold_frame (s : State) :
    (hold s).ott = s.ott ∧ (hold s).mu = s.mu ∧ (hold s).tsq = s.tsq ∧ (hold s).rsp = s.rsp
    ∧ (hold s).rmg = s.rmg ∧ (hold s).tcu = s.tcu ∧ (hold s).tst = s.tst ∧ (hold s).ans = s.ans
    ∧ (hold s).alc = s.alc ∧ (hold s).tbs = s.tbs ∧ (hold s).pulse = s.pulse ∧ (hold s).mgp = s.mgp
    ∧ (hold s).pins = s.pins ∧ (hold s).choices = s.choices ∧ (hold s).pending = s.pending := by
  unfold hold; (try dsimp only); (repeat' split) <;> simp

@[simp] theorem release_frame (s : State) :
    (release s).ott = s.ott ∧ (release s).mu = s.mu ∧ (release s).tsq = s.tsq ∧ (release s).rsp = s.rsp
    ∧ (release s).rmg = s.rmg ∧ (release s).tst = s.tst ∧ (release s).ans = s.ans ∧ (release s).alc = s.alc
    ∧ (release s).tbs = s.tbs ∧ (release s).pulse = s.pulse ∧ (release s).mgp = s.mgp
    ∧ (release s).pins = s.pins ∧ (release s).choices = s.choices ∧ (release s).pending = s.pending := by
  simp [release]

@[simp] theorem answerProtocol_frame (r : Request) (a : Anomaly) (s : State) :
    (answerProtocol r a s).ott = s.ott ∧ (answerProtocol r a s).mu = s.mu ∧ (answerProtocol r a s).rsp = s.rsp
    ∧ (answerProtocol r a s).tbs = s.tbs ∧ (answerProtocol r a s).pulse = s.pulse
    ∧ (answerProtocol r a s).mgp = s.mgp ∧ (answerProtocol r a s).pins = s.pins
    ∧ (answerProtocol r a s).choices = s.choices ∧ (answerProtocol r a s).pending = s.pending := by
  simp [answerProtocol]

@[simp] theorem fencedRecords_frame (t : RqpTxn) (s : State) :
    (fencedRecords t s).ott = s.ott ∧ (fencedRecords t s).mu = s.mu ∧ (fencedRecords t s).tsq = s.tsq
    ∧ (fencedRecords t s).rqp = s.rqp ∧ (fencedRecords t s).rsp = s.rsp ∧ (fencedRecords t s).rmg = s.rmg
    ∧ (fencedRecords t s).ans = s.ans ∧ (fencedRecords t s).tbs = s.tbs ∧ (fencedRecords t s).pulse = s.pulse
    ∧ (fencedRecords t s).mgp = s.mgp ∧ (fencedRecords t s).pins = s.pins
    ∧ (fencedRecords t s).choices = s.choices ∧ (fencedRecords t s).pending = s.pending := by
  unfold fencedRecords; dsimp only; split <;> simp

@[simp] theorem fenceRequest_frame (s : State) :
    (fenceRequest s).ott = s.ott ∧ (fenceRequest s).mu = s.mu ∧ (fenceRequest s).tsq = s.tsq
    ∧ (fenceRequest s).rsp = s.rsp ∧ (fenceRequest s).ans = s.ans ∧ (fenceRequest s).tbs = s.tbs
    ∧ (fenceRequest s).pulse = s.pulse ∧ (fenceRequest s).mgp = s.mgp ∧ (fenceRequest s).pins = s.pins
    ∧ (fenceRequest s).choices = s.choices ∧ (fenceRequest s).pending = s.pending := by
  unfold fenceRequest; (try dsimp only); (repeat' split) <;> simp

@[simp] theorem forwardRequest_frame (s : State) :
    (forwardRequest s).ott = s.ott ∧ (forwardRequest s).mu = s.mu ∧ (forwardRequest s).tsq = s.tsq
    ∧ (forwardRequest s).rsp = s.rsp ∧ (forwardRequest s).rmg = s.rmg ∧ (forwardRequest s).tcu = s.tcu
    ∧ (forwardRequest s).tst = s.tst ∧ (forwardRequest s).ans = s.ans ∧ (forwardRequest s).alc = s.alc
    ∧ (forwardRequest s).tbs = s.tbs ∧ (forwardRequest s).pulse = s.pulse ∧ (forwardRequest s).mgp = s.mgp
    ∧ (forwardRequest s).pins = s.pins ∧ (forwardRequest s).choices = s.choices
    ∧ (forwardRequest s).pending = s.pending := by
  unfold forwardRequest; (try dsimp only); (repeat' split) <;> simp

@[simp] theorem answerResponse_frame (f : Bool) (s : State) :
    (answerResponse f s).mu = s.mu ∧ (answerResponse f s).tsq = s.tsq ∧ (answerResponse f s).rqp = s.rqp
    ∧ (answerResponse f s).rmg = s.rmg ∧ (answerResponse f s).ans = s.ans ∧ (answerResponse f s).tbs = s.tbs
    ∧ (answerResponse f s).pulse = s.pulse ∧ (answerResponse f s).mgp = s.mgp
    ∧ (answerResponse f s).pins = s.pins ∧ (answerResponse f s).choices = s.choices
    ∧ (answerResponse f s).pending = s.pending := by
  unfold answerResponse; (try dsimp only); (repeat' split) <;> simp

@[simp] theorem forwardResponse_frame (s : State) :
    (forwardResponse s).mu = s.mu ∧ (forwardResponse s).tsq = s.tsq ∧ (forwardResponse s).rqp = s.rqp
    ∧ (forwardResponse s).rmg = s.rmg ∧ (forwardResponse s).ans = s.ans ∧ (forwardResponse s).tbs = s.tbs
    ∧ (forwardResponse s).pulse = s.pulse ∧ (forwardResponse s).mgp = s.mgp ∧ (forwardResponse s).pins = s.pins
    ∧ (forwardResponse s).choices = s.choices ∧ (forwardResponse s).pending = s.pending := by
  unfold forwardResponse; (try dsimp only); (repeat' split) <;> simp

@[simp] theorem startPulse_frame (s : State) :
    (startPulse s).ott = s.ott ∧ (startPulse s).mu = s.mu ∧ (startPulse s).tsq = s.tsq
    ∧ (startPulse s).rqp = s.rqp ∧ (startPulse s).rsp = s.rsp ∧ (startPulse s).rmg = s.rmg
    ∧ (startPulse s).tcu = s.tcu ∧ (startPulse s).tst = s.tst ∧ (startPulse s).ans = s.ans
    ∧ (startPulse s).alc = s.alc ∧ (startPulse s).tbs = s.tbs ∧ (startPulse s).mgp = s.mgp
    ∧ (startPulse s).pins = s.pins ∧ (startPulse s).choices = s.choices ∧ (startPulse s).pending = s.pending := by
  unfold startPulse; split <;> simp

@[simp] theorem setCapturing_frame (b : Bool) (s : State) :
    (setCapturing b s).ott = s.ott ∧ (setCapturing b s).mu = s.mu ∧ (setCapturing b s).tsq = s.tsq
    ∧ (setCapturing b s).rqp = s.rqp ∧ (setCapturing b s).rsp = s.rsp ∧ (setCapturing b s).rmg = s.rmg
    ∧ (setCapturing b s).tst = s.tst ∧ (setCapturing b s).ans = s.ans ∧ (setCapturing b s).alc = s.alc
    ∧ (setCapturing b s).tbs = s.tbs ∧ (setCapturing b s).pulse = s.pulse ∧ (setCapturing b s).mgp = s.mgp
    ∧ (setCapturing b s).pins = s.pins ∧ (setCapturing b s).choices = s.choices
    ∧ (setCapturing b s).pending = s.pending := by
  simp [setCapturing]

@[simp] theorem deliver_frame (a : BitVec 7) (s : State) :
    (deliver a s).ott = s.ott ∧ (deliver a s).mu = s.mu ∧ (deliver a s).tsq = s.tsq ∧ (deliver a s).rsp = s.rsp
    ∧ (deliver a s).rmg = s.rmg ∧ (deliver a s).tst = s.tst ∧ (deliver a s).ans = s.ans
    ∧ (deliver a s).tbs = s.tbs ∧ (deliver a s).mgp = s.mgp ∧ (deliver a s).pins = s.pins
    ∧ (deliver a s).choices = s.choices ∧ (deliver a s).pending = s.pending := by
  unfold deliver; simp only [settleRoom_frame]; (repeat' split) <;> simp

end Sys2Proof.Machine
end

