-- ==== Sys2Proof/Laws/CommandFrames.lean ====
section
/-! SUPPORT. The frame of the operations that the commands are made of: the blocks that each leaves as they are. -/
namespace Sys2Proof.Machine

@[simp] theorem evaluateRequest_frame (r : Request) (s : State) :
    (evaluateRequest r s).ott = s.ott ∧ (evaluateRequest r s).rsp = s.rsp ∧ (evaluateRequest r s).rmg = s.rmg
    ∧ (evaluateRequest r s).tcu = s.tcu ∧ (evaluateRequest r s).tst = s.tst ∧ (evaluateRequest r s).ans = s.ans
    ∧ (evaluateRequest r s).alc = s.alc ∧ (evaluateRequest r s).tbs = s.tbs
    ∧ (evaluateRequest r s).pulse = s.pulse ∧ (evaluateRequest r s).mgp = s.mgp
    ∧ (evaluateRequest r s).pins = s.pins ∧ (evaluateRequest r s).choices = s.choices
    ∧ (evaluateRequest r s).pending = s.pending := by
  unfold evaluateRequest; dsimp only; split <;> simp

@[simp] theorem passHoldPoint_frame (s : State) :
    (passHoldPoint s).ott = s.ott ∧ (passHoldPoint s).mu = s.mu ∧ (passHoldPoint s).tsq = s.tsq
    ∧ (passHoldPoint s).rsp = s.rsp ∧ (passHoldPoint s).rmg = s.rmg ∧ (passHoldPoint s).tst = s.tst
    ∧ (passHoldPoint s).ans = s.ans ∧ (passHoldPoint s).alc = s.alc ∧ (passHoldPoint s).tbs = s.tbs
    ∧ (passHoldPoint s).pulse = s.pulse ∧ (passHoldPoint s).mgp = s.mgp ∧ (passHoldPoint s).pins = s.pins
    ∧ (passHoldPoint s).choices = s.choices ∧ (passHoldPoint s).pending = s.pending := by
  unfold passHoldPoint; (try dsimp only); (repeat' split) <;> simp

@[simp] theorem placeRequest_frame (r : Request) (n : Fin 64) (s : State) :
    (placeRequest r n s).mu = s.mu ∧ (placeRequest r n s).tsq = s.tsq ∧ (placeRequest r n s).rqp = s.rqp
    ∧ (placeRequest r n s).rsp = s.rsp ∧ (placeRequest r n s).rmg = s.rmg ∧ (placeRequest r n s).ans = s.ans
    ∧ (placeRequest r n s).tbs = s.tbs ∧ (placeRequest r n s).pulse = s.pulse ∧ (placeRequest r n s).mgp = s.mgp
    ∧ (placeRequest r n s).pins = s.pins ∧ (placeRequest r n s).choices = s.choices
    ∧ (placeRequest r n s).pending = s.pending := by
  unfold placeRequest; (try dsimp only); (repeat' split) <;> simp

@[simp] theorem evaluateResponse_frame (n : Fin 64) (st : DownStatus) (d : List BeatData) (s : State) :
    (evaluateResponse n st d s).rqp = s.rqp ∧ (evaluateResponse n st d s).rmg = s.rmg
    ∧ (evaluateResponse n st d s).ans = s.ans ∧ (evaluateResponse n st d s).tbs = s.tbs
    ∧ (evaluateResponse n st d s).pulse = s.pulse ∧ (evaluateResponse n st d s).mgp = s.mgp
    ∧ (evaluateResponse n st d s).pins = s.pins ∧ (evaluateResponse n st d s).choices = s.choices
    ∧ (evaluateResponse n st d s).pending = s.pending := by
  unfold evaluateResponse; dsimp only; split <;> simp

@[simp] theorem takeLate_frame (n : Fin 64) (s : State) :
    (takeLate n s).mu = s.mu ∧ (takeLate n s).rqp = s.rqp ∧ (takeLate n s).rsp = s.rsp
    ∧ (takeLate n s).rmg = s.rmg ∧ (takeLate n s).tbs = s.tbs ∧ (takeLate n s).pulse = s.pulse
    ∧ (takeLate n s).mgp = s.mgp ∧ (takeLate n s).pins = s.pins ∧ (takeLate n s).choices = s.choices
    ∧ (takeLate n s).pending = s.pending := by
  simp [takeLate]

@[simp] theorem retire_frame (s : State) :
    (retire s).mu = s.mu ∧ (retire s).tsq = s.tsq ∧ (retire s).rmg = s.rmg ∧ (retire s).tst = s.tst
    ∧ (retire s).ans = s.ans ∧ (retire s).alc = s.alc ∧ (retire s).tbs = s.tbs ∧ (retire s).pulse = s.pulse
    ∧ (retire s).mgp = s.mgp ∧ (retire s).pins = s.pins ∧ (retire s).choices = s.choices
    ∧ (retire s).pending = s.pending := by
  unfold retire; split <;> simp

@[simp] theorem takeInput_frame (i : Input) (s : State) :
    (takeInput i s).ott = s.ott ∧ (takeInput i s).mu = s.mu ∧ (takeInput i s).rqp = s.rqp
    ∧ (takeInput i s).rsp = s.rsp ∧ (takeInput i s).rmg = s.rmg ∧ (takeInput i s).tcu = s.tcu
    ∧ (takeInput i s).tst = s.tst ∧ (takeInput i s).ans = s.ans ∧ (takeInput i s).alc = s.alc
    ∧ (takeInput i s).tbs = s.tbs ∧ (takeInput i s).pulse = s.pulse ∧ (takeInput i s).mgp = s.mgp
    ∧ (takeInput i s).pins = s.pins ∧ (takeInput i s).choices = s.choices ∧ (takeInput i s).pending = s.pending := by
  simp [takeInput]

@[simp] theorem transition_frame (c : StageCause) (t : BitVec 3) (a : BitVec 7) (s : State) :
    (transition c t a s).ott = s.ott ∧ (transition c t a s).mu = s.mu ∧ (transition c t a s).rsp = s.rsp
    ∧ (transition c t a s).rmg = s.rmg ∧ (transition c t a s).ans = s.ans ∧ (transition c t a s).tbs = s.tbs
    ∧ (transition c t a s).mgp = s.mgp ∧ (transition c t a s).pins = s.pins
    ∧ (transition c t a s).choices = s.choices ∧ (transition c t a s).pending = s.pending := by
  simp [transition]

@[simp] theorem countInput_frame (x : BitVec 10) (s : State) :
    ((countInput x s).2).ott = s.ott ∧ ((countInput x s).2).mu = s.mu ∧ ((countInput x s).2).rsp = s.rsp
    ∧ ((countInput x s).2).rmg = s.rmg ∧ ((countInput x s).2).ans = s.ans ∧ ((countInput x s).2).tbs = s.tbs
    ∧ ((countInput x s).2).mgp = s.mgp ∧ ((countInput x s).2).pins = s.pins
    ∧ ((countInput x s).2).choices = s.choices ∧ ((countInput x s).2).pending = s.pending := by
  unfold countInput; (try dsimp only); (repeat' split) <;> simp

@[simp] theorem ottTick_frame (s : State) :
    (ottTick s).mu = s.mu ∧ (ottTick s).rsp = s.rsp ∧ (ottTick s).tbs = s.tbs ∧ (ottTick s).pulse = s.pulse
    ∧ (ottTick s).mgp = s.mgp ∧ (ottTick s).pins = s.pins ∧ (ottTick s).pending = s.pending := by
  unfold ottTick; dsimp only; split
  · exact foldl_kept (fun t n => expireReport n t) (fun t => t.mu = s.mu ∧ t.rsp = s.rsp ∧ t.tbs = s.tbs ∧ t.pulse = s.pulse ∧ t.mgp = s.mgp ∧ t.pins = s.pins ∧ t.pending = s.pending) (fun t n h => by simpa using h) slotNumbers (mapEntries Entry.aged s) (by simp)
  · simp

@[simp] theorem rqpTick_frame (s : State) :
    (rqpTick s).ott = s.ott ∧ (rqpTick s).mu = s.mu ∧ (rqpTick s).tsq = s.tsq ∧ (rqpTick s).rsp = s.rsp
    ∧ (rqpTick s).rmg = s.rmg ∧ (rqpTick s).tst = s.tst ∧ (rqpTick s).ans = s.ans ∧ (rqpTick s).tbs = s.tbs
    ∧ (rqpTick s).pulse = s.pulse ∧ (rqpTick s).mgp = s.mgp ∧ (rqpTick s).pins = s.pins
    ∧ (rqpTick s).choices = s.choices ∧ (rqpTick s).pending = s.pending := by
  unfold rqpTick; (try dsimp only); (repeat' split) <;> simp

@[simp] theorem tsqTick_frame (s : State) :
    (tsqTick s).ott = s.ott ∧ (tsqTick s).mu = s.mu ∧ (tsqTick s).rqp = s.rqp ∧ (tsqTick s).rsp = s.rsp
    ∧ (tsqTick s).rmg = s.rmg ∧ (tsqTick s).tcu = s.tcu ∧ (tsqTick s).tst = s.tst ∧ (tsqTick s).ans = s.ans
    ∧ (tsqTick s).alc = s.alc ∧ (tsqTick s).tbs = s.tbs ∧ (tsqTick s).pulse = s.pulse ∧ (tsqTick s).mgp = s.mgp
    ∧ (tsqTick s).pins = s.pins ∧ (tsqTick s).choices = s.choices ∧ (tsqTick s).pending = s.pending := by
  unfold tsqTick; dsimp only; split <;> simp

@[simp] theorem pulseTick_frame (s : State) :
    (pulseTick s).ott = s.ott ∧ (pulseTick s).mu = s.mu ∧ (pulseTick s).tsq = s.tsq ∧ (pulseTick s).rqp = s.rqp
    ∧ (pulseTick s).rsp = s.rsp ∧ (pulseTick s).rmg = s.rmg ∧ (pulseTick s).tcu = s.tcu
    ∧ (pulseTick s).tst = s.tst ∧ (pulseTick s).ans = s.ans ∧ (pulseTick s).alc = s.alc
    ∧ (pulseTick s).tbs = s.tbs ∧ (pulseTick s).mgp = s.mgp ∧ (pulseTick s).pins = s.pins
    ∧ (pulseTick s).choices = s.choices ∧ (pulseTick s).pending = s.pending := by
  unfold pulseTick; split <;> simp

@[simp] theorem tickEvent_frame (s : State) :
    (tickEvent s).mu = s.mu ∧ (tickEvent s).rsp = s.rsp ∧ (tickEvent s).mgp = s.mgp
    ∧ (tickEvent s).pins = s.pins ∧ (tickEvent s).pending = s.pending := by
  simp [tickEvent]

@[simp] theorem beginRecord_frame (s : State) :
    (beginRecord s).ott = s.ott ∧ (beginRecord s).mu = s.mu ∧ (beginRecord s).tsq = s.tsq
    ∧ (beginRecord s).rqp = s.rqp ∧ (beginRecord s).rsp = s.rsp ∧ (beginRecord s).rmg = s.rmg
    ∧ (beginRecord s).tcu = s.tcu ∧ (beginRecord s).ans = s.ans ∧ (beginRecord s).alc = s.alc
    ∧ (beginRecord s).tbs = s.tbs ∧ (beginRecord s).pulse = s.pulse ∧ (beginRecord s).mgp = s.mgp
    ∧ (beginRecord s).pins = s.pins ∧ (beginRecord s).choices = s.choices ∧ (beginRecord s).pending = s.pending := by
  unfold beginRecord; (try dsimp only); (repeat' split) <;> simp

@[simp] theorem freeSlot_frame (s : State) :
    (freeSlot s).ott = s.ott ∧ (freeSlot s).mu = s.mu ∧ (freeSlot s).tsq = s.tsq ∧ (freeSlot s).rsp = s.rsp
    ∧ (freeSlot s).rmg = s.rmg ∧ (freeSlot s).ans = s.ans ∧ (freeSlot s).alc = s.alc ∧ (freeSlot s).tbs = s.tbs
    ∧ (freeSlot s).pulse = s.pulse ∧ (freeSlot s).mgp = s.mgp ∧ (freeSlot s).pins = s.pins
    ∧ (freeSlot s).choices = s.choices ∧ (freeSlot s).pending = s.pending := by
  unfold freeSlot; split <;> simp

@[simp] theorem removeRead_frame (n : Nat) (s : State) :
    (removeRead n s).ott = s.ott ∧ (removeRead n s).mu = s.mu ∧ (removeRead n s).tsq = s.tsq
    ∧ (removeRead n s).rqp = s.rqp ∧ (removeRead n s).rsp = s.rsp ∧ (removeRead n s).rmg = s.rmg
    ∧ (removeRead n s).ans = s.ans ∧ (removeRead n s).alc = s.alc ∧ (removeRead n s).tbs = s.tbs
    ∧ (removeRead n s).pulse = s.pulse ∧ (removeRead n s).mgp = s.mgp ∧ (removeRead n s).pins = s.pins
    ∧ (removeRead n s).choices = s.choices ∧ (removeRead n s).pending = s.pending := by
  by_cases h : n = 0 <;> simp only [removeRead, h, ne_eq, not_true_eq_false, not_false_eq_true, false_and, true_and, if_false, if_true] <;> (try split) <;> simp

@[simp] theorem closeFrame_frame (st : Status) (s : State) :
    (closeFrame st s).ott = s.ott ∧ (closeFrame st s).mu = s.mu ∧ (closeFrame st s).tsq = s.tsq
    ∧ (closeFrame st s).rqp = s.rqp ∧ (closeFrame st s).rsp = s.rsp ∧ (closeFrame st s).rmg = s.rmg
    ∧ (closeFrame st s).tcu = s.tcu ∧ (closeFrame st s).tst = s.tst ∧ (closeFrame st s).ans = s.ans
    ∧ (closeFrame st s).alc = s.alc ∧ (closeFrame st s).tbs = s.tbs ∧ (closeFrame st s).pulse = s.pulse
    ∧ (closeFrame st s).choices = s.choices ∧ (closeFrame st s).pending = s.pending := by
  simp [closeFrame]

@[simp] theorem fixRead_frame (st : Status) (d : Option (List Byte)) (s : State) :
    (fixRead st d s).ott = s.ott ∧ (fixRead st d s).mu = s.mu ∧ (fixRead st d s).tsq = s.tsq
    ∧ (fixRead st d s).rqp = s.rqp ∧ (fixRead st d s).rsp = s.rsp ∧ (fixRead st d s).rmg = s.rmg
    ∧ (fixRead st d s).tcu = s.tcu ∧ (fixRead st d s).tst = s.tst ∧ (fixRead st d s).ans = s.ans
    ∧ (fixRead st d s).alc = s.alc ∧ (fixRead st d s).tbs = s.tbs ∧ (fixRead st d s).pulse = s.pulse
    ∧ (fixRead st d s).pins = s.pins ∧ (fixRead st d s).choices = s.choices
    ∧ (fixRead st d s).pending = s.pending := by
  simp [fixRead]

@[simp] theorem takeReadReg_frame (i : Half) (c : Byte) (s : State) :
    (takeReadReg i c s).ott = s.ott ∧ (takeReadReg i c s).mu = s.mu ∧ (takeReadReg i c s).tsq = s.tsq
    ∧ (takeReadReg i c s).rqp = s.rqp ∧ (takeReadReg i c s).rsp = s.rsp ∧ (takeReadReg i c s).rmg = s.rmg
    ∧ (takeReadReg i c s).tcu = s.tcu ∧ (takeReadReg i c s).tst = s.tst ∧ (takeReadReg i c s).ans = s.ans
    ∧ (takeReadReg i c s).alc = s.alc ∧ (takeReadReg i c s).tbs = s.tbs ∧ (takeReadReg i c s).pulse = s.pulse
    ∧ (takeReadReg i c s).pins = s.pins ∧ (takeReadReg i c s).choices = s.choices
    ∧ (takeReadReg i c s).pending = s.pending := by
  unfold takeReadReg; split <;> simp

@[simp] theorem takeReadEntry_frame (n : Byte) (s : State) :
    (takeReadEntry n s).ott = s.ott ∧ (takeReadEntry n s).mu = s.mu ∧ (takeReadEntry n s).tsq = s.tsq
    ∧ (takeReadEntry n s).rqp = s.rqp ∧ (takeReadEntry n s).rsp = s.rsp ∧ (takeReadEntry n s).rmg = s.rmg
    ∧ (takeReadEntry n s).tcu = s.tcu ∧ (takeReadEntry n s).tst = s.tst ∧ (takeReadEntry n s).ans = s.ans
    ∧ (takeReadEntry n s).alc = s.alc ∧ (takeReadEntry n s).tbs = s.tbs ∧ (takeReadEntry n s).pulse = s.pulse
    ∧ (takeReadEntry n s).pins = s.pins ∧ (takeReadEntry n s).choices = s.choices
    ∧ (takeReadEntry n s).pending = s.pending := by
  unfold takeReadEntry; split <;> simp

@[simp] theorem takeTraceRead_frame (c : Half) (s : State) :
    (takeTraceRead c s).ott = s.ott ∧ (takeTraceRead c s).mu = s.mu ∧ (takeTraceRead c s).tsq = s.tsq
    ∧ (takeTraceRead c s).rqp = s.rqp ∧ (takeTraceRead c s).rsp = s.rsp ∧ (takeTraceRead c s).rmg = s.rmg
    ∧ (takeTraceRead c s).tcu = s.tcu ∧ (takeTraceRead c s).ans = s.ans ∧ (takeTraceRead c s).alc = s.alc
    ∧ (takeTraceRead c s).tbs = s.tbs ∧ (takeTraceRead c s).pulse = s.pulse ∧ (takeTraceRead c s).pins = s.pins
    ∧ (takeTraceRead c s).choices = s.choices ∧ (takeTraceRead c s).pending = s.pending := by
  unfold takeTraceRead; split <;> simp

@[simp] theorem headerComplete_frame (s : State) :
    (headerComplete s).ott = s.ott ∧ (headerComplete s).mu = s.mu ∧ (headerComplete s).tsq = s.tsq
    ∧ (headerComplete s).rqp = s.rqp ∧ (headerComplete s).rsp = s.rsp ∧ (headerComplete s).rmg = s.rmg
    ∧ (headerComplete s).tcu = s.tcu ∧ (headerComplete s).ans = s.ans ∧ (headerComplete s).alc = s.alc
    ∧ (headerComplete s).tbs = s.tbs ∧ (headerComplete s).pulse = s.pulse ∧ (headerComplete s).pins = s.pins
    ∧ (headerComplete s).choices = s.choices ∧ (headerComplete s).pending = s.pending := by
  unfold headerComplete; (try dsimp only); (repeat' split) <;> simp

@[simp] theorem commandComplete_frame (b : Byte) (s : State) :
    (commandComplete b s).ott = s.ott ∧ (commandComplete b s).mu = s.mu ∧ (commandComplete b s).tsq = s.tsq
    ∧ (commandComplete b s).rqp = s.rqp ∧ (commandComplete b s).rsp = s.rsp ∧ (commandComplete b s).rmg = s.rmg
    ∧ (commandComplete b s).tcu = s.tcu ∧ (commandComplete b s).tst = s.tst ∧ (commandComplete b s).ans = s.ans
    ∧ (commandComplete b s).alc = s.alc ∧ (commandComplete b s).tbs = s.tbs
    ∧ (commandComplete b s).pulse = s.pulse ∧ (commandComplete b s).pins = s.pins
    ∧ (commandComplete b s).choices = s.choices ∧ (commandComplete b s).pending = s.pending := by
  unfold commandComplete; split <;> simp

@[simp] theorem byteComplete_frame (b : Byte) (s : State) :
    (byteComplete b s).ott = s.ott ∧ (byteComplete b s).mu = s.mu ∧ (byteComplete b s).tsq = s.tsq
    ∧ (byteComplete b s).rqp = s.rqp ∧ (byteComplete b s).rsp = s.rsp ∧ (byteComplete b s).rmg = s.rmg
    ∧ (byteComplete b s).tcu = s.tcu ∧ (byteComplete b s).ans = s.ans ∧ (byteComplete b s).alc = s.alc
    ∧ (byteComplete b s).tbs = s.tbs ∧ (byteComplete b s).pulse = s.pulse ∧ (byteComplete b s).pins = s.pins
    ∧ (byteComplete b s).choices = s.choices ∧ (byteComplete b s).pending = s.pending := by
  unfold byteComplete; (try dsimp only); (repeat' split) <;> simp

@[simp] theorem sclkEdge_frame (b : Bool) (s : State) :
    (sclkEdge b s).ott = s.ott ∧ (sclkEdge b s).mu = s.mu ∧ (sclkEdge b s).tsq = s.tsq
    ∧ (sclkEdge b s).rqp = s.rqp ∧ (sclkEdge b s).rsp = s.rsp ∧ (sclkEdge b s).rmg = s.rmg
    ∧ (sclkEdge b s).tcu = s.tcu ∧ (sclkEdge b s).ans = s.ans ∧ (sclkEdge b s).alc = s.alc
    ∧ (sclkEdge b s).tbs = s.tbs ∧ (sclkEdge b s).pulse = s.pulse ∧ (sclkEdge b s).pins = s.pins
    ∧ (sclkEdge b s).choices = s.choices ∧ (sclkEdge b s).pending = s.pending := by
  unfold sclkEdge; (try dsimp only); (repeat' split) <;> simp

@[simp] theorem purge_frame (s : State) :
    (purge s).mu = s.mu ∧ (purge s).tsq = s.tsq ∧ (purge s).rqp = s.rqp ∧ (purge s).rsp = s.rsp
    ∧ (purge s).rmg = s.rmg ∧ (purge s).tcu = s.tcu ∧ (purge s).tst = s.tst ∧ (purge s).ans = s.ans
    ∧ (purge s).alc = s.alc ∧ (purge s).tbs = s.tbs ∧ (purge s).pulse = s.pulse ∧ (purge s).mgp = s.mgp
    ∧ (purge s).pins = s.pins ∧ (purge s).choices = s.choices ∧ (purge s).pending = s.pending := by
  simp [purge]

@[simp] theorem discardTraffic_frame (s : State) :
    (discardTraffic s).mu = s.mu ∧ (discardTraffic s).tst = s.tst ∧ (discardTraffic s).ans = s.ans
    ∧ (discardTraffic s).alc = s.alc ∧ (discardTraffic s).tbs = s.tbs ∧ (discardTraffic s).pulse = s.pulse
    ∧ (discardTraffic s).mgp = s.mgp ∧ (discardTraffic s).pins = s.pins ∧ (discardTraffic s).choices = s.choices
    ∧ (discardTraffic s).pending = s.pending := by
  simp [discardTraffic]

@[simp] theorem writeMode_frame (m : BitVec 3) (s : State) :
    (writeMode m s).mu = s.mu ∧ (writeMode m s).tsq = s.tsq ∧ (writeMode m s).rsp = s.rsp
    ∧ (writeMode m s).rmg = s.rmg ∧ (writeMode m s).ans = s.ans ∧ (writeMode m s).alc = s.alc
    ∧ (writeMode m s).tbs = s.tbs ∧ (writeMode m s).pulse = s.pulse ∧ (writeMode m s).mgp = s.mgp
    ∧ (writeMode m s).pins = s.pins ∧ (writeMode m s).choices = s.choices ∧ (writeMode m s).pending = s.pending := by
  simp [writeMode]

@[simp] theorem writeWord_frame (s : State) (x : WinWord) (w : Word) :
    (writeWord s x w).rsp = s.rsp ∧ (writeWord s x w).rmg = s.rmg ∧ (writeWord s x w).pulse = s.pulse
    ∧ (writeWord s x w).mgp = s.mgp ∧ (writeWord s x w).pins = s.pins ∧ (writeWord s x w).choices = s.choices
    ∧ (writeWord s x w).pending = s.pending := by
  unfold writeWord; split <;> simp

end Sys2Proof.Machine
end

