-- ==== Sys2Proof/Laws/Entries.lean ====
section
/-! SUPPORT. Reading the slots of OTT after the operations that write them, the first FREE slot, and the counts
that are sums over the slots. -/
namespace Sys2Proof.Machine

/-- A slot reads the same in states with the same OTT. -/
theorem entry_congr {s t : State} (h : t.ott = s.ott) (n : Fin 64) : entry t n = entry s n := by
  simp [entry, h]

theorem entry_setEntry (n : Fin 64) (e : Entry) (s : State) (m : Fin 64) :
    entry (setEntry n e s) m = if m = n then e else entry s m := by
  by_cases h : m = n
  · subst h; simp [entry, setEntry]
  · have : n.val ≠ m.val := fun x => h (Fin.ext x.symm)
    simp [entry, setEntry, h, Vector.getElem_set_ne _ _ this]

@[simp] theorem entry_setEntry_self (n : Fin 64) (e : Entry) (s : State) : entry (setEntry n e s) n = e := by
  simp [entry_setEntry]

@[simp] theorem entry_mapEntries (f : Entry → Entry) (s : State) (m : Fin 64) :
    entry (mapEntries f s) m = f (entry s m) := by
  simp [entry, mapEntries]

@[simp] theorem setEntry_timeout (n : Fin 64) (e : Entry) (s : State) :
    (setEntry n e s).ott.timeout = s.ott.timeout := rfl
@[simp] theorem setEntry_policy (n : Fin 64) (e : Entry) (s : State) :
    (setEntry n e s).ott.policy = s.ott.policy := rfl
@[simp] theorem setEntry_purgeCount (n : Fin 64) (e : Entry) (s : State) :
    (setEntry n e s).ott.purgeCount = s.ott.purgeCount := rfl
@[simp] theorem mapEntries_timeout (f : Entry → Entry) (s : State) :
    (mapEntries f s).ott.timeout = s.ott.timeout := by simp only [mapEntries, State.setOtt_ott]
@[simp] theorem mapEntries_policy (f : Entry → Entry) (s : State) :
    (mapEntries f s).ott.policy = s.ott.policy := by simp only [mapEntries, State.setOtt_ott]
@[simp] theorem mapEntries_purgeCount (f : Entry → Entry) (s : State) :
    (mapEntries f s).ott.purgeCount = s.ott.purgeCount := by simp only [mapEntries, State.setOtt_ott]

/-- Writing back what a slot holds changes nothing. -/
theorem setEntry_same (n : Fin 64) (s : State) : setEntry n (entry s n) s = s := by
  simp [setEntry, entry, State.setOtt]

theorem entry_purge (s : State) (n : Fin 64) : entry (purge s) n = (entry s n).purged := by
  have h : entry (purge s) n = entry (mapEntries Entry.purged s) n := by simp only [purge, entry, State.setOtt_ott]
  rw [h, entry_mapEntries]

/-- R20: the purge leaves the timeout and the policy alone. -/
theorem purge_table (s : State) : (purge s).ott.timeout = s.ott.timeout ∧ (purge s).ott.policy = s.ott.policy := by
  simp only [purge, State.setOtt_ott, mapEntries_timeout, mapEntries_policy, and_self]

/-! ### Operations that leave every slot alone -/

@[simp] theorem entry_setMu (x : Mu) (s : State) (n : Fin 64) : entry (s.setMu x) n = entry s n := rfl
@[simp] theorem entry_setTsq (x : Tsq) (s : State) (n : Fin 64) : entry (s.setTsq x) n = entry s n := rfl
@[simp] theorem entry_setRqp (x : Rqp) (s : State) (n : Fin 64) : entry (s.setRqp x) n = entry s n := rfl
@[simp] theorem entry_setRsp (x : Rsp) (s : State) (n : Fin 64) : entry (s.setRsp x) n = entry s n := rfl
@[simp] theorem entry_setRmg (x : Rmg) (s : State) (n : Fin 64) : entry (s.setRmg x) n = entry s n := rfl
@[simp] theorem entry_setTcu (x : Tcu) (s : State) (n : Fin 64) : entry (s.setTcu x) n = entry s n := rfl
@[simp] theorem entry_setTst (x : Tst) (s : State) (n : Fin 64) : entry (s.setTst x) n = entry s n := rfl
@[simp] theorem entry_setAns (x : Ans) (s : State) (n : Fin 64) : entry (s.setAns x) n = entry s n := rfl
@[simp] theorem entry_setAlc (x : Alc) (s : State) (n : Fin 64) : entry (s.setAlc x) n = entry s n := rfl
@[simp] theorem entry_setTbs (x : Tbs) (s : State) (n : Fin 64) : entry (s.setTbs x) n = entry s n := rfl
@[simp] theorem entry_setPulse (x : Pulse) (s : State) (n : Fin 64) : entry (s.setPulse x) n = entry s n := rfl
@[simp] theorem entry_setMgp (x : Mgp) (s : State) (n : Fin 64) : entry (s.setMgp x) n = entry s n := rfl
@[simp] theorem entry_setPins (x : Pins) (s : State) (n : Fin 64) : entry (s.setPins x) n = entry s n := rfl
@[simp] theorem entry_setChoices (x : Nat) (s : State) (n : Fin 64) : entry (s.setChoices x) n = entry s n := rfl
@[simp] theorem entry_setPending (x : List Instr) (s : State) (n : Fin 64) : entry (s.setPending x) n = entry s n := rfl
@[simp] theorem entry_raise (c : Cause) (s : State) (m : Fin 64) :
    entry (raise c s) m = entry s m := entry_congr (raise_frame ..).1 m
@[simp] theorem entry_raiseIf (b : Bool) (c : Cause) (s : State) (m : Fin 64) :
    entry (raiseIf b c s) m = entry s m := entry_congr (raiseIf_frame ..).1 m
@[simp] theorem entry_acknowledge (x : BitVec 6) (s : State) (m : Fin 64) :
    entry (acknowledge x s) m = entry s m := entry_congr (acknowledge_frame ..).1 m
@[simp] theorem entry_recordHits (h : Byte) (s : State) (m : Fin 64) :
    entry (recordHits h s) m = entry s m := entry_congr (recordHits_frame ..).1 m
@[simp] theorem entry_clearMatches (s : State) (m : Fin 64) :
    entry (clearMatches s) m = entry s m := entry_congr (clearMatches_frame ..).1 m
@[simp] theorem entry_recordAnomaly (a : Anomaly) (s : State) (m : Fin 64) :
    entry (recordAnomaly a s) m = entry s m := entry_congr (recordAnomaly_frame ..).1 m
@[simp] theorem entry_clearSummary (s : State) (m : Fin 64) :
    entry (clearSummary s) m = entry s m := entry_congr (clearSummary_frame ..).1 m
@[simp] theorem entry_appendGroup (g : List Record) (b : Nat) (s : State) (m : Fin 64) :
    entry (appendGroup g b s) m = entry s m := entry_congr (appendGroup_frame ..).1 m
@[simp] theorem entry_ringTake (g : List Record) (s : State) (m : Fin 64) :
    entry ((ringTake g s).2) m = entry s m := entry_congr (ringTake_frame ..).1 m
@[simp] theorem entry_stopTake (g : List Record) (s : State) (m : Fin 64) :
    entry ((stopTake g s).2) m = entry s m := entry_congr (stopTake_frame ..).1 m
@[simp] theorem entry_dropTake (g : List Record) (s : State) (m : Fin 64) :
    entry ((dropTake g s).2) m = entry s m := entry_congr (dropTake_frame ..).1 m
@[simp] theorem entry_storeTake_unbacked (g : List Record) (k : Nat) (s : State) (m : Fin 64) :
    entry ((storeTake g k .unbacked s).2) m = entry s m := entry_congr (storeTake_unbacked_frame ..) m
@[simp] theorem entry_storeTake_claim (g : List Record) (k c : Nat) (s : State) (m : Fin 64) :
    entry ((storeTake g k (.claim c) s).2) m = entry s m := entry_congr (storeTake_claim_frame ..) m
@[simp] theorem entry_offerRecord_unbacked (r : Record) (f : Option (Addr × Byte)) (s : State) (m : Fin 64) :
    entry ((offerRecord r .unbacked f s).2) m = entry s m := entry_congr (offerRecord_unbacked_frame ..) m
@[simp] theorem entry_offerRecord_claim (r : Record) (c : Nat) (f : Option (Addr × Byte)) (s : State) (m : Fin 64) :
    entry ((offerRecord r (.claim c) f s).2) m = entry s m := entry_congr (offerRecord_claim_frame ..) m
@[simp] theorem entry_offerEvent (r : Record) (s : State) (m : Fin 64) :
    entry (offerEvent r s) m = entry s m := entry_congr (offerEvent_frame ..).1 m
@[simp] theorem entry_takeAnomaly (a : Anomaly) (s : State) (m : Fin 64) :
    entry (takeAnomaly a s) m = entry s m := entry_congr (takeAnomaly_frame ..).1 m
@[simp] theorem entry_enqueue (r : UpResponse) (s : State) (m : Fin 64) :
    entry (enqueue r s) m = entry s m := entry_congr (enqueue_frame ..).1 m
@[simp] theorem entry_setTxn (t : Option RqpTxn) (s : State) (m : Fin 64) :
    entry (setTxn t s) m = entry s m := entry_congr (setTxn_frame ..).1 m
@[simp] theorem entry_setCapture (c : Option Capture) (s : State) (m : Fin 64) :
    entry (setCapture c s) m = entry s m := entry_congr (setCapture_frame ..).1 m
@[simp] theorem entry_grantClaim (s : State) (m : Fin 64) :
    entry (grantClaim s) m = entry s m := entry_congr (grantClaim_frame ..).1 m
@[simp] theorem entry_beginOffer (t : RqpTxn) (s : State) (m : Fin 64) :
    entry (beginOffer t s) m = entry s m := entry_congr (beginOffer_frame ..).1 m
@[simp] theorem entry_settleRoom (s : State) (m : Fin 64) :
    entry (settleRoom s) m = entry s m := entry_congr (settleRoom_frame ..).1 m
@[simp] theorem entry_cancelCapture (s : State) (m : Fin 64) :
    entry (cancelCapture s) m = entry s m := entry_congr (cancelCapture_frame ..).1 m
@[simp] theorem entry_decideCapture (t : RqpTxn) (s : State) (m : Fin 64) :
    entry (decideCapture t s) m = entry s m := entry_congr (decideCapture_frame ..).1 m
@[simp] theorem entry_timeoutAnomaly (n : Fin 64) (e : Entry) (s : State) (m : Fin 64) :
    entry (timeoutAnomaly n e s) m = entry s m := entry_congr (timeoutAnomaly_frame ..).1 m
@[simp] theorem entry_releaseFlag (s : State) (m : Fin 64) :
    entry (releaseFlag s) m = entry s m := entry_congr (releaseFlag_frame ..).1 m
@[simp] theorem entry_hold (s : State) (m : Fin 64) :
    entry (hold s) m = entry s m := entry_congr (hold_frame ..).1 m
@[simp] theorem entry_release (s : State) (m : Fin 64) :
    entry (release s) m = entry s m := entry_congr (release_frame ..).1 m
@[simp] theorem entry_answerProtocol (r : Request) (a : Anomaly) (s : State) (m : Fin 64) :
    entry (answerProtocol r a s) m = entry s m := entry_congr (answerProtocol_frame ..).1 m
@[simp] theorem entry_fencedRecords (t : RqpTxn) (s : State) (m : Fin 64) :
    entry (fencedRecords t s) m = entry s m := entry_congr (fencedRecords_frame ..).1 m
@[simp] theorem entry_fenceRequest (s : State) (m : Fin 64) :
    entry (fenceRequest s) m = entry s m := entry_congr (fenceRequest_frame ..).1 m
@[simp] theorem entry_forwardRequest (s : State) (m : Fin 64) :
    entry (forwardRequest s) m = entry s m := entry_congr (forwardRequest_frame ..).1 m
@[simp] theorem entry_startPulse (s : State) (m : Fin 64) :
    entry (startPulse s) m = entry s m := entry_congr (startPulse_frame ..).1 m
@[simp] theorem entry_setCapturing (b : Bool) (s : State) (m : Fin 64) :
    entry (setCapturing b s) m = entry s m := entry_congr (setCapturing_frame ..).1 m
@[simp] theorem entry_deliver (a : BitVec 7) (s : State) (m : Fin 64) :
    entry (deliver a s) m = entry s m := entry_congr (deliver_frame ..).1 m
@[simp] theorem entry_evaluateRequest (r : Request) (s : State) (m : Fin 64) :
    entry (evaluateRequest r s) m = entry s m := entry_congr (evaluateRequest_frame ..).1 m
@[simp] theorem entry_passHoldPoint (s : State) (m : Fin 64) :
    entry (passHoldPoint s) m = entry s m := entry_congr (passHoldPoint_frame ..).1 m
@[simp] theorem entry_takeInput (i : Input) (s : State) (m : Fin 64) :
    entry (takeInput i s) m = entry s m := entry_congr (takeInput_frame ..).1 m
@[simp] theorem entry_transition (c : StageCause) (t : BitVec 3) (a : BitVec 7) (s : State) (m : Fin 64) :
    entry (transition c t a s) m = entry s m := entry_congr (transition_frame ..).1 m
@[simp] theorem entry_countInput (x : BitVec 10) (s : State) (m : Fin 64) :
    entry ((countInput x s).2) m = entry s m := entry_congr (countInput_frame ..).1 m
@[simp] theorem entry_rqpTick (s : State) (m : Fin 64) :
    entry (rqpTick s) m = entry s m := entry_congr (rqpTick_frame ..).1 m
@[simp] theorem entry_tsqTick (s : State) (m : Fin 64) :
    entry (tsqTick s) m = entry s m := entry_congr (tsqTick_frame ..).1 m
@[simp] theorem entry_pulseTick (s : State) (m : Fin 64) :
    entry (pulseTick s) m = entry s m := entry_congr (pulseTick_frame ..).1 m
@[simp] theorem entry_beginRecord (s : State) (m : Fin 64) :
    entry (beginRecord s) m = entry s m := entry_congr (beginRecord_frame ..).1 m
@[simp] theorem entry_freeSlot (s : State) (m : Fin 64) :
    entry (freeSlot s) m = entry s m := entry_congr (freeSlot_frame ..).1 m
@[simp] theorem entry_removeRead (n : Nat) (s : State) (m : Fin 64) :
    entry (removeRead n s) m = entry s m := entry_congr (removeRead_frame ..).1 m
@[simp] theorem entry_closeFrame (st : Status) (s : State) (m : Fin 64) :
    entry (closeFrame st s) m = entry s m := entry_congr (closeFrame_frame ..).1 m
@[simp] theorem entry_fixRead (st : Status) (d : Option (List Byte)) (s : State) (m : Fin 64) :
    entry (fixRead st d s) m = entry s m := entry_congr (fixRead_frame ..).1 m
@[simp] theorem entry_takeReadReg (i : Half) (c : Byte) (s : State) (m : Fin 64) :
    entry (takeReadReg i c s) m = entry s m := entry_congr (takeReadReg_frame ..).1 m
@[simp] theorem entry_takeReadEntry (n : Byte) (s : State) (m : Fin 64) :
    entry (takeReadEntry n s) m = entry s m := entry_congr (takeReadEntry_frame ..).1 m
@[simp] theorem entry_takeTraceRead (c : Half) (s : State) (m : Fin 64) :
    entry (takeTraceRead c s) m = entry s m := entry_congr (takeTraceRead_frame ..).1 m
@[simp] theorem entry_headerComplete (s : State) (m : Fin 64) :
    entry (headerComplete s) m = entry s m := entry_congr (headerComplete_frame ..).1 m
@[simp] theorem entry_commandComplete (b : Byte) (s : State) (m : Fin 64) :
    entry (commandComplete b s) m = entry s m := entry_congr (commandComplete_frame ..).1 m
@[simp] theorem entry_byteComplete (b : Byte) (s : State) (m : Fin 64) :
    entry (byteComplete b s) m = entry s m := entry_congr (byteComplete_frame ..).1 m
@[simp] theorem entry_sclkEdge (b : Bool) (s : State) (m : Fin 64) :
    entry (sclkEdge b s) m = entry s m := entry_congr (sclkEdge_frame ..).1 m

/-! ### The lowest FREE slot -/

/-- `find?` over the slot numbers gives the lowest number with the property. -/
theorem find_slotNumbers_eq_some {p : Fin 64 → Bool} {n : Fin 64} :
    slotNumbers.find? p = some n ↔ p n = true ∧ ∀ m : Fin 64, m < n → p m = false := by
  rw [List.find?_eq_some_iff_getElem]
  constructor
  · rintro ⟨hp, i, hi, he, hb⟩
    refine ⟨hp, fun m hm => ?_⟩
    have hl : slotNumbers.length = 64 := by simp [slotNumbers]
    have e1 : n.val = i := by rw [← he]; simp [slotNumbers]
    have := hb m.val (by have := Fin.lt_def.1 hm; omega)
    simpa [slotNumbers] using this
  · rintro ⟨hp, hb⟩
    refine ⟨hp, n.val, by simp [slotNumbers], by simp [slotNumbers], fun j hj => ?_⟩
    have := hb ⟨j, by omega⟩ (by simpa [Fin.lt_def] using hj)
    simpa [slotNumbers] using this

theorem lowestFree_eq_some {s : State} {n : Fin 64} : lowestFree s = some n ↔ LowestFree s n := by
  simp [lowestFree, find_slotNumbers_eq_some, LowestFree]

theorem lowestFree_isSome {s : State} : (lowestFree s).isSome = true ↔ ∃ n, (entry s n).state = .free := by
  simp [lowestFree, slotNumbers, List.find?_isSome]

theorem lowestFree_congr {s t : State} (h : t.ott = s.ott) : lowestFree t = lowestFree s := by
  simp [lowestFree, entry_congr h]

/-- The offer begins with the slot that `LowestFree` names. -/
theorem beginOffer_lowest {s : State} {n : Fin 64} (h : LowestFree s n) (t : RqpTxn) :
    beginOffer t s = setTxn (some { t with phase := .offered n }) s := by
  simp [beginOffer, lowestFree_eq_some.2 h]

/-! ### Sums over the slots -/

/-- The sum over the slots of a number of each, after one slot is written. -/
theorem sum_set (f : Entry → Nat) (v : Vector Entry 64) (n : Fin 64) (e : Entry) :
    ((v.set n e).toList.map f).sum + f v[n] = (v.toList.map f).sum + f e := by
  have key : ∀ (l : List Entry) (i : Nat) (h : i < l.length),
      ((l.set i e).map f).sum + f l[i] = (l.map f).sum + f e := by
    intro l
    induction l with
    | nil => intro i h; simp at h
    | cons a l ih =>
      intro i h
      cases i with
      | zero => simp; omega
      | succ i =>
        have := ih i (by simpa using h)
        simp only [List.set_cons_succ, List.map_cons, List.sum_cons, List.getElem_cons_succ]
        omega
  have := key v.toList n.val (by simp)
  rw [← Vector.toList_set n.isLt] at this
  simpa only [Vector.getElem_toList, Fin.getElem_fin] using this

/-- R122: the reserved count after one slot is written. -/
theorem reserved_setEntry (n : Fin 64) (e : Entry) (s : State) :
    reserved (setEntry n e s) + (entry s n).reservation = reserved s + e.reservation := by
  simpa [reserved, setEntry, entry] using sum_set Entry.reservation s.ott.slots n e

/-- R122: a slot's reservation is part of the reserved count. -/
theorem reservation_le_reserved (n : Fin 64) (s : State) : (entry s n).reservation ≤ reserved s := by
  have := reserved_setEntry n { entry s n with reservation := 0 } s
  simp at this; omega

/-- The reserved count reads the reservations alone. -/
theorem reserved_congr_entries {s t : State} (h : ∀ n, (entry t n).reservation = (entry s n).reservation) :
    reserved t = reserved s := by
  simp only [reserved]
  congr 1
  apply List.ext_getElem
  · simp
  · intro i h1 h2
    have := h ⟨i, by simpa using h1⟩
    simpa [entry] using this

/-- No slot holds a reservation: the reserved count is 0. -/
theorem reserved_eq_zero {s : State} (h : ∀ n, (entry s n).reservation = 0) : reserved s = 0 := by
  have key : ∀ l : List Entry, (∀ e ∈ l, e.reservation = 0) → (l.map Entry.reservation).sum = 0 := by
    intro l; induction l with
    | nil => intro _; rfl
    | cons a l ih => intro hl; simp [hl a, ih (fun e he => hl e (by simp [he]))]
  refine key _ (fun e he => ?_)
  obtain ⟨i, hi, rfl⟩ := List.getElem_of_mem he
  simpa [entry] using h ⟨i, by simpa using hi⟩

theorem reserved_eq_zero_iff {s : State} : reserved s = 0 ↔ ∀ n, (entry s n).reservation = 0 :=
  ⟨fun h n => by have := reservation_le_reserved n s; omega, reserved_eq_zero⟩

theorem reserved_congr {s t : State} (h : t.ott = s.ott) : reserved t = reserved s := by
  simp [reserved, h]

/-- A count over the slots after one slot is written. -/
theorem countP_set (p : Entry → Bool) (v : Vector Entry 64) (n : Fin 64) (e : Entry) :
    (v.set n e).toList.countP p + (if p v[n] then 1 else 0) = v.toList.countP p + (if p e then 1 else 0) := by
  have h : ∀ l : List Entry, l.countP p = (l.map (fun x => if p x then 1 else 0)).sum := by
    intro l; induction l with
    | nil => rfl
    | cons a l ih => simp [List.countP_cons, ih]; omega
  rw [h, h]
  exact sum_set (fun x => if p x then 1 else 0) v n e

/-- A count over the slots reads each slot alone. -/
theorem countP_congr_entries {p : Entry → Bool} {s t : State} (h : ∀ n, p (entry t n) = p (entry s n)) :
    t.ott.slots.toList.countP p = s.ott.slots.toList.countP p := by
  have g : ∀ l : List Entry, l.countP p = (l.map (fun x => if p x then 1 else 0)).sum := by
    intro l; induction l with
    | nil => rfl
    | cons a l ih => simp [List.countP_cons, ih]; omega
  rw [g, g]
  congr 1
  apply List.ext_getElem
  · simp
  · intro i h1 h2
    have := h ⟨i, by simpa using h1⟩
    simp only [entry, Fin.getElem_fin] at this
    simp [this]

end Sys2Proof.Machine
end

