-- ==== Sys2Proof/Laws/Store.lean ====
section
/-! SUPPORT. What an offer of a group does: where it is placed as it is, and that fill, reserved count and claim stay
within the store whatever becomes of it (R115 to R124). -/
namespace Sys2Proof.Machine

theorem slotsOf_append (a b : List Record) : slotsOf (a ++ b) = slotsOf a + slotsOf b := by
  simp [slotsOf]

theorem flatten_length (a : List Record) : a.flatten.length = slotsOf a := by
  simp [slotsOf, List.length_flatten]

/-! ### What the counts read -/

theorem modeOf_congr {s t : State} (h : t.tst = s.tst) : modeOf t = modeOf s := by simp [modeOf, h]
theorem fill_congr {s t : State} (h : t.tst = s.tst) : fill t = fill s := by simp [fill, egressTail, h]
theorem claim_congr {s t : State} (h : t.tcu.capture = s.tcu.capture) : claim t = claim s := by simp [claim, h]

@[simp] theorem appendGroup_mode (g : List Record) (b : Nat) (s : State) :
    (appendGroup g b s).tst = { s.tst with records := s.tst.records ++ g } := by simp [appendGroup]

theorem fill_appendGroup (g : List Record) (b : Nat) (s : State) : fill (appendGroup g b s) = fill s + slotsOf g := by
  simp [fill, egressTail, slotsOf_append]; omega

theorem composeGroup_congr {s t : State} (h1 : t.tbs = s.tbs) (h2 : t.tcu = s.tcu) (r : Record) :
    composeGroup r t = composeGroup r s := by
  simp [composeGroup, needsLoss, needsSync, h1, h2]

theorem record_le_group (r : Record) (s : State) : r.length ≤ slotsOf (composeGroup r s) := by
  simp only [composeGroup, slotsOf_append]; simp [slotsOf]

theorem group_le (r : Record) (s : State) : slotsOf (composeGroup r s) ≤ r.length + 2 := by
  simp only [composeGroup, slotsOf_append]
  split <;> split <;> simp [slotsOf, lossRecord, syncRecord] <;> omega

/-! ### A group that fits is placed -/

/-- R117 to R121: a group that fits the store as it is is placed and nothing leaves the store. -/
theorem storeTake_fits {g : List Record} {k : Nat} {s : State} (h : FitsAsItIs s (slotsOf g)) :
    storeTake g k .unbacked s = (.placed, appendGroup g (fill s) s) := by
  obtain ⟨hm, hs, hb⟩ := h
  have hf : slotsOf g ≤ freeSlots s := by simp only [freeSlots, Config.storeSlots] at *; omega
  have hu : slotsOf g ≤ unclaimedFree s := by simp only [unclaimedFree, freeSlots, Config.storeSlots] at *; omega
  unfold storeTake
  split
  · simp_all
  · simp [ringTake, hf]
  · rename_i h; simp [stopTake, hf, hs h]
  · simp [dropTake, hu]
  · simp [stallTake, hu]

/-- R103, R104: the offer of an unbacked group that fits. -/
theorem offerRecord_fits {r : Record} {f : Option (Addr × Byte)} {s : State}
    (h : FitsAsItIs s (slotsOf (composeGroup r s))) :
    offerRecord r .unbacked f s =
      (true, (appendGroup (composeGroup r s) (fill s) s).setTcu
        (groupPlaced (needsLoss s) (needsSync s) f s.tbs.timestamp s.tcu)) := by
  simp [offerRecord, storeTake_fits h, h.1]

/-- R96, R123: in STREAM_STALL a group backed by a granted claim is placed if it fits with the response reservation. -/
theorem offerRecord_claim_fits {r : Record} {c : Nat} {f : Option (Addr × Byte)} {s : State}
    (hm : modeOf s = .streamStall) (h : slotsOf (composeGroup r s) + c ≤ freeSlots s) :
    offerRecord r (.claim c) f s =
      (true, (appendGroup (composeGroup r s) (fill s) s).setTcu
        (groupPlaced (needsLoss s) (needsSync s) f s.tbs.timestamp s.tcu)) := by
  have hs : storeTake (composeGroup r s) r.length (.claim c) s
      = (.placed, appendGroup (composeGroup r s) (fill s) s) := by
    simp [storeTake, hm, stallTake, h]
  simp [offerRecord, hm, hs]

/-- R101: in the OFF mode no record is built. -/
theorem offerRecord_off {r : Record} {b : Backing} {f : Option (Addr × Byte)} {s : State} (h : modeOf s = .off) :
    offerRecord r b f s = (false, s) := by simp [offerRecord, h]

theorem offerEvent_off {r : Record} {s : State} (h : modeOf s = .off) : offerEvent r s = s := by
  simp [offerEvent, offerRecord_off h]

theorem offerEvent_fits {r : Record} {s : State} (h : FitsAsItIs s (slotsOf (composeGroup r s))) :
    offerEvent r s = (appendGroup (composeGroup r s) (fill s) s).setTcu
        (groupPlaced (needsLoss s) (needsSync s) none s.tbs.timestamp s.tcu) := by
  simp [offerEvent, offerRecord_fits h]

/-! ### What an offer never touches -/

@[simp] theorem groupPlaced_kept (l y : Bool) (f : Option (Addr × Byte)) (now : Word) (t : Tcu) :
    (groupPlaced l y f now t).capturing = t.capturing ∧ (groupPlaced l y f now t).byChannels = t.byChannels
    ∧ (groupPlaced l y f now t).captureSet = t.captureSet ∧ (groupPlaced l y f now t).firstBeat = t.firstBeat
    ∧ (groupPlaced l y f now t).capture = t.capture := by
  unfold groupPlaced; cases l <;> cases y <;> cases f <;> simp

@[simp] theorem groupDropped_kept (c : Bool) (t : Tcu) :
    (groupDropped c t).capturing = t.capturing ∧ (groupDropped c t).byChannels = t.byChannels
    ∧ (groupDropped c t).captureSet = t.captureSet ∧ (groupDropped c t).firstBeat = t.firstBeat
    ∧ (groupDropped c t).capture = t.capture := by simp [groupDropped]

/-- A group leaves TCU, the mode, the threshold, the snapshot and the record in transmission alone. -/
theorem storeTake_tst (g : List Record) (k : Nat) (b : Backing) (s : State) :
    (storeTake g k b s).2.tst.mode = s.tst.mode ∧ (storeTake g k b s).2.tst.tx = s.tst.tx
    ∧ (storeTake g k b s).2.tst.threshold = s.tst.threshold ∧ (storeTake g k b s).2.tst.snapshot = s.tst.snapshot := by
  unfold storeTake ringTake stopTake dropTake stallTake
  dsimp only
  (repeat' split) <;> simp

theorem offerRecord_tst (r : Record) (b : Backing) (f : Option (Addr × Byte)) (s : State) :
    (offerRecord r b f s).2.tst.mode = s.tst.mode ∧ (offerRecord r b f s).2.tst.tx = s.tst.tx
    ∧ (offerRecord r b f s).2.tst.threshold = s.tst.threshold
    ∧ (offerRecord r b f s).2.tst.snapshot = s.tst.snapshot := by
  unfold offerRecord
  dsimp only
  (repeat' split) <;> simp [storeTake_tst]

/-- A record request leaves CAPTURING, the capture configuration and the capture in hand alone. -/
theorem offerRecord_tcu (r : Record) (b : Backing) (f : Option (Addr × Byte)) (s : State) :
    (offerRecord r b f s).2.tcu.capturing = s.tcu.capturing ∧ (offerRecord r b f s).2.tcu.byChannels = s.tcu.byChannels
    ∧ (offerRecord r b f s).2.tcu.captureSet = s.tcu.captureSet
    ∧ (offerRecord r b f s).2.tcu.firstBeat = s.tcu.firstBeat
    ∧ (offerRecord r b f s).2.tcu.capture = s.tcu.capture := by
  unfold offerRecord
  dsimp only
  (repeat' split) <;> simp

/-- R122: an offer changes nothing in a slot but its reservation, and that only downwards and only in the slot that
backs it. -/
theorem storeTake_entry (g : List Record) (k : Nat) (b : Backing) (s : State) (m : Fin 64) :
    ∃ x ≤ (entry s m).reservation, entry (storeTake g k b s).2 m = { entry s m with reservation := x } := by
  have same : ∀ t : State, t.ott = s.ott → ∃ x ≤ (entry s m).reservation,
      entry t m = { entry s m with reservation := x } := fun t h => ⟨_, Nat.le_refl _, by rw [entry_congr h]⟩
  unfold storeTake
  split
  · exact same _ rfl
  · exact same _ (by simp)
  · exact same _ (by simp)
  · exact same _ (by simp)
  · unfold stallTake
    split
    · exact same _ (by split <;> simp)
    · exact same _ (by split <;> simp)
    · rename_i n
      split
      · dsimp only
        rw [entry_congr (appendGroup_frame _ _ _).1, entry_setEntry]
        split
        · rename_i h; subst h; exact ⟨_, Nat.sub_le _ _, rfl⟩
        · exact ⟨_, Nat.le_refl _, rfl⟩
      · exact same _ rfl

theorem offerRecord_ott {r : Record} {b : Backing} {f : Option (Addr × Byte)} {s : State} (h : modeOf s ≠ .off) :
    (offerRecord r b f s).2.ott = (storeTake (composeGroup r s) r.length b s).2.ott := by
  unfold offerRecord
  dsimp only
  rw [if_neg h]
  split <;> simp

theorem offerRecord_entry (r : Record) (b : Backing) (f : Option (Addr × Byte)) (s : State) (m : Fin 64) :
    ∃ x ≤ (entry s m).reservation, entry (offerRecord r b f s).2 m = { entry s m with reservation := x } := by
  by_cases h : modeOf s = .off
  · rw [offerRecord_off h]; exact ⟨_, Nat.le_refl _, rfl⟩
  · rw [entry_congr (offerRecord_ott h)]; exact storeTake_entry _ _ b s m

theorem storeTake_table (g : List Record) (k : Nat) (b : Backing) (s : State) :
    (storeTake g k b s).2.ott.policy = s.ott.policy ∧ (storeTake g k b s).2.ott.timeout = s.ott.timeout
    ∧ (storeTake g k b s).2.ott.purgeCount = s.ott.purgeCount := by
  unfold storeTake
  split <;> try (simp; done)
  unfold stallTake
  dsimp only
  (repeat' split) <;> simp

/-- An offer leaves the timeout, the policy and the purge count alone. -/
theorem offerRecord_table (r : Record) (b : Backing) (f : Option (Addr × Byte)) (s : State) :
    (offerRecord r b f s).2.ott.policy = s.ott.policy ∧ (offerRecord r b f s).2.ott.timeout = s.ott.timeout
    ∧ (offerRecord r b f s).2.ott.purgeCount = s.ott.purgeCount := by
  by_cases h : modeOf s = .off
  · simp [offerRecord_off h]
  · simp only [offerRecord_ott h]; exact storeTake_table _ _ _ _

/-- R122: an offer leaves every slot that does not back it as it is. -/
theorem offerRecord_entry_other {r : Record} {b : Backing} {f : Option (Addr × Byte)} {s : State} {m : Fin 64}
    (hb : b ≠ .reservation m) : entry (offerRecord r b f s).2 m = entry s m := by
  by_cases h : modeOf s = .off
  · rw [offerRecord_off h]
  · rw [entry_congr (offerRecord_ott h)]
    cases b with
    | unbacked => exact entry_congr (storeTake_unbacked_frame _ _ _) m
    | claim c => exact entry_congr (storeTake_claim_frame _ _ _ _) m
    | reservation n =>
      have hn : m ≠ n := fun x => hb (by rw [x])
      unfold storeTake
      split
      · rfl
      · exact entry_congr (by simp) m
      · exact entry_congr (by simp) m
      · exact entry_congr (by simp) m
      · unfold stallTake
        dsimp only
        split
        · rw [entry_congr (appendGroup_frame _ _ _).1, entry_setEntry, if_neg hn]
        · rfl

/-! ### The causes that an offer raises -/

@[simp] theorem raise_enable (c : Cause) (s : State) : (raise c s).alc.enable = s.alc.enable := by simp [raise]
@[simp] theorem raiseIf_enable (b : Bool) (c : Cause) (s : State) : (raiseIf b c s).alc.enable = s.alc.enable := by
  cases b <;> simp [raiseIf]

theorem raise_pending (c : Cause) (s : State) (i : Nat) :
    (raise c s).alc.pending.getLsbD i = (s.alc.pending.getLsbD i || c.bit.getLsbD i) := by simp [raise]

theorem raiseIf_pending (b : Bool) (c : Cause) (s : State) (i : Nat) :
    (raiseIf b c s).alc.pending.getLsbD i = (s.alc.pending.getLsbD i || (b && c.bit.getLsbD i)) := by
  cases b <;> simp [raiseIf, raise_pending]

/-- R104, R126: an offer raises THRESHOLD and LOSS alone. -/
theorem storeTake_alc (g : List Record) (k : Nat) (b : Backing) (s : State) :
    (storeTake g k b s).2.alc.enable = s.alc.enable
    ∧ ∀ i, i ≠ 2 → i ≠ 3 → (storeTake g k b s).2.alc.pending.getLsbD i = s.alc.pending.getLsbD i := by
  have key : ∀ (g : List Record) (b : Nat) (t : State), t.alc = s.alc →
      (appendGroup g b t).alc.enable = s.alc.enable
      ∧ ∀ i, i ≠ 2 → i ≠ 3 → (appendGroup g b t).alc.pending.getLsbD i = s.alc.pending.getLsbD i := by
    intro g b t h
    refine ⟨by simp [appendGroup, h], fun i h2 h3 => ?_⟩
    have hb : Cause.threshold.bit.getLsbD i = false := by
      match i with
      | 0 => rfl
      | 1 => rfl
      | 4 => rfl
      | 5 => rfl
      | _ + 6 => simp
    simp [appendGroup, raiseIf_pending, hb, h]
  unfold storeTake ringTake stopTake dropTake stallTake
  dsimp only
  (repeat' split) <;> first | exact key _ _ _ rfl | exact key _ _ _ (by simp) | simp

theorem offerRecord_alc (r : Record) (b : Backing) (f : Option (Addr × Byte)) (s : State) :
    (offerRecord r b f s).2.alc.enable = s.alc.enable
    ∧ ∀ i, i ≠ 2 → i ≠ 3 → (offerRecord r b f s).2.alc.pending.getLsbD i = s.alc.pending.getLsbD i := by
  have h := storeTake_alc (composeGroup r s) r.length b s
  unfold offerRecord
  dsimp only
  split
  · simp
  · split
    · simpa using h
    · refine ⟨by simpa using h.1, fun i h2 h3 => ?_⟩
      have hb : Cause.loss.bit.getLsbD i = false := by
        match i with
        | 0 => rfl
        | 1 => rfl
        | 4 => rfl
        | 5 => rfl
        | _ + 6 => simp
      simp [raise_pending, hb, h.2 i h2 h3]
    · simpa using h

theorem offerEvent_alc (r : Record) (s : State) :
    (offerEvent r s).alc.enable = s.alc.enable
    ∧ ∀ i, i ≠ 2 → i ≠ 3 → (offerEvent r s).alc.pending.getLsbD i = s.alc.pending.getLsbD i := offerRecord_alc _ _ _ s

end Sys2Proof.Machine
end

