-- ==== Sys2Proof/Laws/Records.lean ====
section
/-! SUPPORT. What the offer of one record leaves behind, in the words of the statements: stored behind LOSS and SYNC,
lost and counted, or taken out of an entry's reservation (R99, R103, R104, R117 to R124). -/
namespace Sys2Proof.Machine

theorem groupPlaced_clears (f : Option (Addr × Byte)) (s : State) :
    (groupPlaced (needsLoss s) (needsSync s) f s.tbs.timestamp s.tcu).lossCount = 0
    ∧ (groupPlaced (needsLoss s) (needsSync s) f s.tbs.timestamp s.tcu).syncNeeded = false
    ∧ (groupPlaced (needsLoss s) (needsSync s) f s.tbs.timestamp s.tcu).lastSyncHigh
        = s.tbs.timestamp.extractLsb' 16 16 := by
  have hl : needsLoss s = false → s.tcu.lossCount = 0 := fun h => by
    simpa [needsLoss] using h
  have hs : needsSync s = false →
      s.tcu.syncNeeded = false ∧ s.tcu.lastSyncHigh = s.tbs.timestamp.extractLsb' 16 16 := fun h => by
    simp only [needsSync, Bool.or_eq_false_iff, decide_eq_false_iff_not, ne_eq, Decidable.not_not] at h
    exact ⟨h.1, h.2.symm⟩
  generalize needsLoss s = l at hl ⊢
  generalize needsSync s = y at hs ⊢
  unfold groupPlaced
  cases l <;> cases y <;> cases f <;> simp_all

/-- R103, R104, R117: a placed group, as the statements say it. -/
theorem placed_stored {r : Record} {f : Option (Addr × Byte)} {b : Nat} {s t : State}
    (h1 : t.tst = (appendGroup (composeGroup r s) b s).tst)
    (h2 : t.tcu = groupPlaced (needsLoss s) (needsSync s) f s.tbs.timestamp s.tcu) : RecordStored r s t := by
  have := groupPlaced_clears f s
  exact ⟨by rw [h1]; simp, by rw [h2]; exact this.1, by rw [h2]; exact this.2.1, by rw [h2]; exact this.2.2⟩

theorem offerRecord_stored {r : Record} {f : Option (Addr × Byte)} {s : State}
    (h : FitsAsItIs s (composeGroup r s).flatten.length) :
    RecordStored r s (offerRecord r .unbacked f s).2 ∧ (offerRecord r .unbacked f s).2.ott = s.ott := by
  rw [flatten_length] at h
  rw [offerRecord_fits h]
  exact ⟨placed_stored (f := f) (b := fill s) (by simp) (by simp), by simp⟩

/-- R101: an event record whose group fits is stored. -/
theorem offerEvent_stored {r : Record} {s : State} (h : FitsAsItIs s (composeGroup r s).flatten.length) :
    RecordStored r s (offerEvent r s) ∧ (offerEvent r s).ott = s.ott := offerRecord_stored h

/-- R104: a group dropped and counted, as the statements say it. -/
theorem offerRecord_lost {r : Record} {b : Backing} {f : Option (Addr × Byte)} {s : State} (hm : modeOf s ≠ .off)
    (h : storeTake (composeGroup r s) r.length b s = (.droppedCounted, s)) :
    RecordLost s (offerRecord r b f s).2 ∧ (offerRecord r b f s).2.ott = s.ott := by
  have hb : Cause.loss.bit.getLsbD 3 = true := rfl
  simp only [offerRecord, hm, if_false, h]
  refine ⟨⟨by simp, by simp [groupDropped], by simp [groupDropped], by simp [groupDropped], ?_⟩, by simp⟩
  rw [raise_pending, hb, Bool.or_true]

/-- R99, R122, R124: the RESPONSE record of a traced entry. -/
theorem offerRecord_response (r : Record) (n : Fin 64) (s : State) :
    ResponseRecordTaken r n s (offerRecord r (.reservation n) none s).2 := by
  have hgl := flatten_length (composeGroup r s)
  refine ⟨fun m hm => offerRecord_entry_other (fun h => hm (by cases h; rfl)), fun h => ?_, fun hm hr => ⟨fun hf => ?_,
    fun hx hf => ?_⟩, fun hm hf => ?_⟩
  · rw [offerRecord_off h]; exact ⟨rfl, rfl, rfl⟩
  · have hu : slotsOf (composeGroup r s) - r.length ≤ unclaimedFree s := by
      simp only [unclaimedFree, freeSlots, Config.storeSlots] at *; omega
    have hs : storeTake (composeGroup r s) r.length (.reservation n) s = (.placed, appendGroup (composeGroup r s) (fill s)
        (setEntry n { entry s n with reservation := (entry s n).reservation - r.length } s)) := by
      simp [storeTake, hm, stallTake, hu, hr]
    have ho : modeOf s ≠ .off := by rw [hm]; decide
    simp only [offerRecord, ho, if_false, hs]
    refine ⟨placed_stored (f := none) (b := fill s) (by simp) (by simp), ?_⟩
    rw [entry_congr (State.setTcu_ott _ _), entry_congr (appendGroup_frame _ _ _).1, entry_setEntry_self]
  · have hu : ¬ (slotsOf (composeGroup r s) - r.length ≤ unclaimedFree s) := by
      simp only [unclaimedFree, freeSlots, Config.storeSlots] at *; omega
    refine offerRecord_lost (by rw [hm]; decide) ?_
    simp [storeTake, hm, stallTake, hu]
  · rw [hgl] at hf
    have hs : storeTake (composeGroup r s) r.length (.reservation n) s
        = storeTake (composeGroup r s) r.length .unbacked s := by
      unfold storeTake; split <;> first | rfl | (rename_i h; exact absurd h hm)
    have he : offerRecord r (.reservation n) none s = offerRecord r .unbacked none s := by simp only [offerRecord, hs]
    rw [he]
    exact offerRecord_stored (by rw [hgl]; exact hf)

/-- After a stored record the next one needs neither LOSS nor SYNC at the same timestamp (R103). -/
theorem RecordStored.next_group {r q : Record} {s t : State} (h : RecordStored r s t) (hb : t.tbs = s.tbs) :
    composeGroup q t = [q] := by
  obtain ⟨_, h1, h2, h3⟩ := h
  simp [composeGroup, needsLoss, needsSync, h1, h2, h3, hb]

/-- Room for two records is room for the second once the first is stored. -/
theorem RecordStored.fits_next {r q : Record} {k : Nat} {s t : State} (h : RecordStored r s t) (hb : t.tbs = s.tbs)
    (ho : t.ott = s.ott) (hc : t.tcu.capture = s.tcu.capture)
    (hf : FitsAsItIs s ((composeGroup r s).flatten.length + k)) :
    FitsAsItIs t k ∧ ((composeGroup q t).flatten.length = q.length) := by
  have hm : modeOf t = modeOf s := by simp [modeOf, h.1]
  have hfill : fill t = fill s + (composeGroup r s).flatten.length := by
    simp only [fill, egressTail, h.1, slotsOf_append, flatten_length]; omega
  refine ⟨⟨by rw [hm]; exact hf.1, fun x => by rw [h.1]; exact hf.2.1 (by rw [← hm]; exact x), ?_⟩, ?_⟩
  · rw [hfill, reserved_congr ho, claim_congr hc]
    have := hf.2.2
    omega
  · rw [h.next_group hb]; simp

/-- R94: the capture decision. -/
theorem eligible_iff {hits : Byte} {s : State} : eligible hits s = true ↔ Captured hits s := by
  unfold eligible Captured
  cases s.tcu.byChannels <;> simp [and_assoc]

/-- R98: the two records of a captured fenced request, with room for both. -/
theorem fencedRecords_stored {t : RqpTxn} {q : Record} {s : State}
    (hq : q = requestFull t.req (withFirstBeat t.req s) true slotNone s.tbs.timestamp)
    (hf : FitsAsItIs s ((composeGroup q s).flatten.length + 1)) :
    (fencedRecords t s).tst.records = s.tst.records ++ composeGroup q s
        ++ [responseRecord .fenced t.req.initiator t.req.tag slotNone 0 none s.tbs.timestamp]
    ∧ (fencedRecords t s).tcu.refValid = true ∧ (fencedRecords t s).tcu.refAddr = t.req.addr
    ∧ (fencedRecords t s).tcu.refContext = t.req.context := by
  have hf1 : FitsAsItIs s (slotsOf (composeGroup q s)) := by
    rw [← flatten_length]; exact ⟨hf.1, hf.2.1, by have := hf.2.2; omega⟩
  have ho := offerRecord_fits (f := some (t.req.addr, t.req.context)) hf1
  have hs := (offerRecord_stored (f := some (t.req.addr, t.req.context)) (r := q) (s := s)
    (by rw [flatten_length]; exact hf1)).1
  have hb := (offerRecord_frame q .unbacked (some (t.req.addr, t.req.context)) s)
  have hcap := (offerRecord_tcu q .unbacked (some (t.req.addr, t.req.context)) s).2.2.2.2
  have hott := offerRecord_unbacked_frame q (some (t.req.addr, t.req.context)) s
  have href : (offerRecord q .unbacked (some (t.req.addr, t.req.context)) s).2.tcu.refValid = true
      ∧ (offerRecord q .unbacked (some (t.req.addr, t.req.context)) s).2.tcu.refAddr = t.req.addr
      ∧ (offerRecord q .unbacked (some (t.req.addr, t.req.context)) s).2.tcu.refContext = t.req.context := by
    rw [ho]; simp [groupPlaced]
  have hyes : (offerRecord q .unbacked (some (t.req.addr, t.req.context)) s).1 = true := by rw [ho]
  unfold fencedRecords
  simp only [← hq, hyes, if_true]
  clear ho hyes hf1
  generalize (offerRecord q .unbacked (some (t.req.addr, t.req.context)) s).2 = u at hs hb hcap hott href ⊢
  have hbs : u.tbs = s.tbs := by simp [hb]
  have hfu := hs.fits_next (q := responseRecord .fenced t.req.initiator t.req.tag slotNone 0 none u.tbs.timestamp) hbs hott
    hcap hf
  have hlen : (responseRecord .fenced t.req.initiator t.req.tag slotNone 0 none u.tbs.timestamp).length = 1 := rfl
  rw [hlen] at hfu
  have hfit : FitsAsItIs u (composeGroup
      (responseRecord .fenced t.req.initiator t.req.tag slotNone 0 none u.tbs.timestamp) u).flatten.length := by
    rw [hfu.2]; exact hfu.1
  have h2 := (offerEvent_stored hfit).1
  have h3 := offerEvent_fits (by rw [← flatten_length]; exact hfit)
  have hn : needsSync u = false := by simp [needsSync, hs.2.2.1, hs.2.2.2, hbs]
  refine ⟨?_, ?_⟩
  · rw [h2.1, hs.next_group hbs]
    show u.tst.records ++ _ = _
    rw [hs.1, hbs]
  · rw [h3, hn]
    simp only [groupPlaced, State.setTcu_tcu, Bool.false_eq_true, if_false]
    split <;> exact href

/-- R98, R101, R122: a record without a reservation and a RESPONSE record behind it. -/
theorem RecordThenResponse.of_offers {r q : Record} {n : Fin 64} {s t u : State}
    (h1 : FitsAsItIs s (composeGroup r s).flatten.length → RecordStored r s t) (ho : t.ott = s.ott) (hb : t.tbs = s.tbs)
    (hc : t.tcu.capture = s.tcu.capture) (h2 : ResponseRecordTaken q n t u) : RecordThenResponse r q n s u := by
  intro hf hr
  have hs : RecordStored r s t := h1 ⟨hf.1, hf.2.1, by have := hf.2.2; omega⟩
  have hg := hs.next_group hb (q := q)
  have ht := hs.1
  have hm : modeOf t = modeOf s := by simp [modeOf, ht]
  have hfill : fill t = fill s + (composeGroup r s).flatten.length := by
    simp only [fill, egressTail, ht, slotsOf_append, flatten_length]; omega
  have hres : reserved t = reserved s := reserved_congr ho
  have hcl : claim t = claim s := claim_congr hc
  have he : entry t n = entry s n := entry_congr ho n
  have hq : (composeGroup q t).flatten.length = q.length := by rw [hg]; simp
  have h3 := hf.2.2
  by_cases hst : modeOf s = .streamStall
  · have := (h2.2.2.1 (by rw [hm]; exact hst) (by rw [he]; exact hr hst)).1 (by
      rw [if_pos hst] at h3; rw [hq, hfill, hres, hcl]; omega)
    rw [this.1.1, hg, ht, this.2, he]
    simp [hst]
  · have := h2.2.2.2 (by rw [hm]; exact hst) ⟨by rw [hm]; exact hf.1, fun h => by
        rw [ht]; exact hf.2.1 (by rw [← hm]; exact h), by
      rw [if_neg hst] at h3; rw [hq, hfill, hres, hcl]; omega⟩
    rw [this.1.1, hg, ht, entry_congr this.2, he]
    simp [hst]

/-- R59, R99, R174: a response answered FORWARD. -/
theorem answerResponse_forwarded {x : RspTxn} {s : State} (h : s.rsp.inProcess = some x) :
    ResponseForwarded x s (answerResponse false s) := by
  refine ⟨?_, fun ht => ?_, fun ht => ?_, by simp, by simp, by simp, by simp, by simp, by simp, by simp, by simp⟩
  · simp [answerResponse, h, upstreamAnswer]
  · simp [answerResponse, h, ht]
  · have hrec : responseRecord (recordStatus x false) (entry s x.slot).initiator (entry s x.slot).tag (slotCode x.slot)
        (satHalf (s.tbs.timestamp - (entry s x.slot).stamp).toNat) (responseData (entry s x.slot) x false s)
        s.tbs.timestamp
        = entryRecord (if x.status = .okay then .okay else .fault) (recordedBeat x.slot x.status x.data s) x.slot s := by
      simp only [entryRecord, slotCode, responseData, recordedBeat, recordStatus, Bool.false_eq_true, if_false, true_and]
      cases hx : x.status <;> simp
    have := offerRecord_response (entryRecord (if x.status = .okay then .okay else .fault)
      (recordedBeat x.slot x.status x.data s) x.slot s) x.slot s
    simp only [answerResponse, h, ht, if_true, hrec]
    exact this

/-- R118: the oldest records leave, one by one, until the group fits. -/
theorem ringRemove_drop (size : Nat) : ∀ (rs : List Record) (free n : Nat), n ≤ rs.length →
    size ≤ free + slotsOf (rs.take n) → (∀ j < n, free + slotsOf (rs.take j) < size) →
    ringRemove free size rs = (n, rs.drop n) := by
  intro rs
  induction rs with
  | nil => intro free n hn _ _; have : n = 0 := by simpa using hn
           subst this; rfl
  | cons r rs ih =>
    intro free n hn h1 h2
    unfold ringRemove
    cases n with
    | zero => rw [if_pos (by simpa [slotsOf] using h1)]; rfl
    | succ n =>
      have h0 := h2 0 (by omega)
      have hso : ∀ l : List Record, slotsOf (r :: l) = r.length + slotsOf l := fun l => by simp [slotsOf]
      rw [if_neg (by simp [slotsOf] at h0; omega), ih (free + r.length) n (by simpa using hn)
        (by rw [List.take_succ_cons, hso] at h1; omega)
        (fun j hj => by have := h2 (j + 1) (by omega); rw [List.take_succ_cons, hso] at this; omega)]
      rfl

end Sys2Proof.Machine
end

