-- ==== Sys2Proof/Laws/Anomalies.lean ====
section
/-! SUPPORT. What the take of an anomaly does (R141). -/
namespace Sys2Proof.Machine

/-- A class is in a set of classes exactly when the set's bit of its code is 1 (R198). -/
theorem class_mem (c : AnomalyClass) (x : BitVec 6) : decide (x &&& c.bit ≠ 0) = x.getLsbD c.code.val := by
  cases c <;> revert x <;> decide

theorem takeAnomaly_ans (a : Anomaly) (s : State) : (takeAnomaly a s).ans = (recordAnomaly a s).ans := by
  unfold takeAnomaly
  dsimp only
  split <;> simp

theorem takeAnomaly_tsq (a : Anomaly) (s : State) :
    (takeAnomaly a s).tsq = { s.tsq with an := s.tsq.an || s.ans.anMask.getLsbD a.cls.code.val } := by
  have h := class_mem a.cls s.ans.anMask
  unfold takeAnomaly
  dsimp only
  split
  · rename_i hm
    have : s.ans.anMask.getLsbD a.cls.code.val = true := by
      rw [← h]; exact decide_eq_true (by simpa [recordAnomaly] using hm)
    simp only [this, Bool.or_true]; simp
  · rename_i hm
    have : s.ans.anMask.getLsbD a.cls.code.val = false := by
      rw [← h]; exact decide_eq_false (by simpa [recordAnomaly] using hm)
    simp only [this, Bool.or_false]; simp

theorem takeAnomaly_alc (a : Anomaly) (s : State) :
    (takeAnomaly a s).alc.enable = s.alc.enable
    ∧ (takeAnomaly a s).alc.pending.getLsbD 1
        = (s.alc.pending.getLsbD 1 || s.ans.alertMask.getLsbD a.cls.code.val)
    ∧ ∀ i, i ≠ 1 → i ≠ 2 → i ≠ 3 → (takeAnomaly a s).alc.pending.getLsbD i = s.alc.pending.getLsbD i := by
  have h := class_mem a.cls s.ans.alertMask
  have hz : ∀ i, i ≠ 1 → Cause.anomaly.bit.getLsbD i = false := by
    intro i hi
    match i with
    | 0 => rfl
    | 2 => rfl
    | 3 => rfl
    | 4 => rfl
    | 5 => rfl
    | _ + 6 => simp
  have key : ∀ (r : Record) (s1 : State), s1.alc = s.alc → s1.ans.alertMask = s.ans.alertMask →
      (offerEvent r (raiseIf (decide (s1.ans.alertMask &&& a.cls.bit ≠ 0)) .anomaly s1)).alc.enable = s.alc.enable
      ∧ ∀ i, i ≠ 2 → i ≠ 3 →
        (offerEvent r (raiseIf (decide (s1.ans.alertMask &&& a.cls.bit ≠ 0)) .anomaly s1)).alc.pending.getLsbD i
          = (s.alc.pending.getLsbD i || (s.ans.alertMask.getLsbD a.cls.code.val && Cause.anomaly.bit.getLsbD i)) := by
    intro r s1 h1 h2
    refine ⟨by rw [(offerEvent_alc _ _).1]; simp [h1], fun i h3 h4 => ?_⟩
    rw [(offerEvent_alc _ _).2 i h3 h4, raiseIf_pending, h1, h2, h]
  have hk : (takeAnomaly a s).alc.enable = s.alc.enable
      ∧ ∀ i, i ≠ 2 → i ≠ 3 → (takeAnomaly a s).alc.pending.getLsbD i
          = (s.alc.pending.getLsbD i || (s.ans.alertMask.getLsbD a.cls.code.val && Cause.anomaly.bit.getLsbD i)) := by
    unfold takeAnomaly
    dsimp only
    split
    · refine key _ _ ?_ ?_ <;> simp [recordAnomaly]
    · refine key _ _ ?_ ?_ <;> simp [recordAnomaly]
  refine ⟨hk.1, ?_, fun i h1 h2 h3 => ?_⟩
  · rw [hk.2 1 (by omega) (by omega)]
    have : Cause.anomaly.bit.getLsbD 1 = true := rfl
    rw [this, Bool.and_true]
  · rw [hk.2 i h2 h3, hz i h1, Bool.and_false, Bool.or_false]

/-- In the OFF mode an anomaly leaves no record and TCU as it is. -/
theorem takeAnomaly_off {a : Anomaly} {s : State} (h : modeOf s = .off) :
    (takeAnomaly a s).tst = s.tst ∧ (takeAnomaly a s).tcu = s.tcu := by
  unfold takeAnomaly
  dsimp only
  split <;> (rw [offerEvent_off (by simpa [modeOf] using h)]; simp)

/-- R141: the take of an anomaly, as the statements say it. -/
theorem takeAnomaly_taken (a : Anomaly) (s : State) : AnomalyTaken a s (takeAnomaly a s) := by
  refine ⟨by simp [takeAnomaly_ans, recordAnomaly], by simp [takeAnomaly_ans, recordAnomaly], fun k hk => ?_, ?_,
    by simp [takeAnomaly_ans, recordAnomaly], by simp [takeAnomaly_ans, recordAnomaly], takeAnomaly_tsq a s,
    (takeAnomaly_alc a s).2.1, takeAnomaly_off⟩
  · have : a.cls.code.val ≠ k.val := fun h => hk (Fin.ext h.symm)
    simp [takeAnomaly_ans, recordAnomaly, Vector.getElem_set_ne _ _ this]
  · simp only [takeAnomaly_ans, recordAnomaly, State.setAns_ans]
    cases s.ans.first <;> rfl

/-- `AnomalyTaken` reads of its first state the blocks ANS, TSQ, ALC, TBS, TST and TCU alone. -/
theorem AnomalyTaken.of_eq {a : Anomaly} {s s' t : State} (h : AnomalyTaken a s' t) (h1 : s'.ans = s.ans)
    (h2 : s'.tsq = s.tsq) (h3 : s'.alc = s.alc) (h4 : s'.tbs = s.tbs) (h5 : s'.tst = s.tst) (h6 : s'.tcu = s.tcu) :
    AnomalyTaken a s t := by
  simpa only [AnomalyTaken, modeOf, h1, h2, h3, h4, h5, h6] using h

/-- R101, R141: the ANOMALY record of a taken anomaly, as the statements say it. -/
theorem takeAnomaly_recorded (a : Anomaly) (s : State) : AnomalyRecorded a s (takeAnomaly a s) := by
  have key : ∀ s1 : State, s1.tst = s.tst → s1.tcu = s.tcu → s1.tbs = s.tbs → s1.ott = s.ott →
      AnomalyRecorded a s (offerEvent (anomalyRecord a s1.tbs.timestamp) s1) := by
    intro s1 h1 h2 h3 h4 hf
    have hg : composeGroup (anomalyRecord a s.tbs.timestamp) s1 = composeGroup (anomalyRecord a s.tbs.timestamp) s :=
      composeGroup_congr h3 h2 _
    have hs := (offerEvent_stored (r := anomalyRecord a s.tbs.timestamp) (s := s1) (by
      have e1 : fill s1 = fill s := fill_congr h1
      have e2 : claim s1 = claim s := claim_congr (by rw [h2])
      have e3 : reserved s1 = reserved s := reserved_congr h4
      simpa only [hg, FitsAsItIs, modeOf, e1, e2, e3, h1] using hf)).1
    rw [h3]
    simpa only [RecordStored, hg, h1, h3] using hs
  unfold takeAnomaly
  dsimp only
  split <;> exact key _ (by simp [recordAnomaly]) (by simp [recordAnomaly]) (by simp [recordAnomaly])
    (by simp [recordAnomaly])

/-- `AnomalyRecorded` reads of its first state the blocks TST, TCU and TBS and the reserved count, which may be lower, and
of its second TST and TCU. -/
theorem AnomalyRecorded.of_eq {a : Anomaly} {s s' t t' : State} (h : AnomalyRecorded a s' t') (h1 : s'.tst = s.tst)
    (h2 : s'.tcu = s.tcu) (h3 : s'.tbs = s.tbs) (h4 : reserved s' ≤ reserved s) (h5 : t'.tst = t.tst)
    (h6 : t'.tcu = t.tcu) : AnomalyRecorded a s t := by
  intro hf
  have hg : ∀ r, composeGroup r s' = composeGroup r s := fun r => composeGroup_congr h3 h2 r
  have e1 : fill s' = fill s := fill_congr h1
  have e2 : claim s' = claim s := claim_congr (by rw [h2])
  have hs := h (by
    rw [hg, h3]
    refine ⟨by simpa only [modeOf, h1] using hf.1, by simpa only [modeOf, h1] using hf.2.1, ?_⟩
    have := hf.2.2
    omega)
  simpa only [RecordStored, hg, h1, h3, h5, h6] using hs

end Sys2Proof.Machine
end

