-- ==== Sys2Proof/Laws/Requests.lean ====
section
/-! SUPPORT. The checks of a request and of a response in the words of the rules: acceptance (R166), legality (R164),
duplication (R6), the hit set (R40) and the lookup (R7). -/
namespace Sys2Proof.Machine

theorem linkUp_iff {s : State} : linkUp s = true ↔ LinksUp s := by simp [linkUp, LinksUp]

theorem whenLinkUp_up {f : State → State} {s : State} (h : LinksUp s) : whenLinkUp f s = .next (f s) := by
  simp [whenLinkUp, linkUp_iff.2 h]

theorem whenPowered_up {f : State → State} {s : State} (h : Powered s) : whenPowered f s = .next (f s) := by
  simp only [Powered] at h; simp [whenPowered, h]

theorem positionFree_iff {s : State} :
    positionFree s = true ↔ s.rmg.queue.length + reservedPositions s < Config.queuePositions := by simp [positionFree]

theorem reservedPositions_none {s : State} (h : s.rqp.inProcess = none) : reservedPositions s = 0 := by
  simp [reservedPositions, h]

theorem acceptsRequest_iff {s : State} : LinksUp s ∧ acceptsRequest s = true ↔ Accepting s := by
  simp only [acceptsRequest, Accepting, Bool.and_eq_true, Option.isNone_iff_eq_none, Bool.not_eq_true',
    lowestFree_isSome, positionFree_iff]
  constructor
  · rintro ⟨hl, ⟨⟨hn, hh⟩, hf⟩, hp⟩
    rw [reservedPositions_none hn] at hp
    exact ⟨hl, hn, hh, hf, hp⟩
  · rintro ⟨hl, hn, hh, hf, hp⟩
    refine ⟨hl, ⟨⟨hn, hh⟩, hf⟩, ?_⟩
    rw [reservedPositions_none hn]; exact hp

theorem legal_iff {r : Request} : malformedRequest r = false ↔ Legal r := by
  have hb : 1 ≤ beatsOf r.lenM1 := by simp [beatsOf]
  simp only [malformedRequest, Legal, Bool.or_eq_false_iff, Bool.and_eq_false_iff, decide_eq_false_iff_not, spanEnd]
  constructor
  · rintro ⟨⟨⟨h1, h2⟩, h3⟩, h4⟩
    refine ⟨?_, Decidable.not_not.1 (of_decide_eq_false h2), fun hk => ?_, fun hk => ?_⟩
    · rcases h1 with h | h
      · left; omega
      · right; exact Decidable.not_not.1 h
    · rcases h3 with h | h
      · exact absurd hk h
      · exact Decidable.not_not.1 h
    · rcases h4 with h | h
      · exact absurd hk h
      · simpa using h
  · rintro ⟨h1, h2, h3, h4⟩
    refine ⟨⟨⟨?_, decide_eq_false (by simpa using h2)⟩, ?_⟩, ?_⟩
    · rcases h1 with h | h
      · left; omega
      · right; exact Decidable.not_not.2 h
    · by_cases hk : r.kind = .write
      · right; exact Decidable.not_not.2 (h3 hk)
      · left; exact hk
    · by_cases hk : r.kind = .read
      · right; simp [h4 hk]
      · left; exact hk

theorem not_legal_iff {r : Request} : malformedRequest r = true ↔ ¬ Legal r := by
  rw [← legal_iff]; simp

theorem duplicateOf_none {r : Request} {s : State} : duplicateOf r s = none ↔ PairFree r s := by
  simp only [duplicateOf, slotNumbers, List.find?_eq_none, List.mem_finRange, decide_eq_true_eq, PairFree,
    true_implies]
  constructor
  · intro h n hl hp; exact h n ⟨hl, hp.1, hp.2⟩
  · intro h n hp; exact h n hp.1 ⟨hp.2.1, hp.2.2⟩

theorem duplicateOf_some {r : Request} {s : State} {n : Fin 64} (h : duplicateOf r s = some n) :
    (entry s n).state = .live ∧ (entry s n).initiator = r.initiator ∧ (entry s n).tag = r.tag := by
  simpa using (find_slotNumbers_eq_some.1 h).1

/-- R6: with the LIVE pairs distinct the duplicate found is the one there is. -/
theorem duplicateOf_distinct {r : Request} {s : State} {n : Fin 64} (hd : LivePairsDistinct s)
    (h : (entry s n).state = .live ∧ (entry s n).initiator = r.initiator ∧ (entry s n).tag = r.tag) :
    duplicateOf r s = some n := by
  cases hm : duplicateOf r s with
  | none => exact absurd ⟨h.2.1, h.2.2⟩ (duplicateOf_none.1 hm n h.1)
  | some m =>
    have g := duplicateOf_some hm
    rw [hd m n g.1 h.1 (g.2.1.trans h.2.1.symm) (g.2.2.trans h.2.2.symm)]

/-! ### Hit sets -/

theorem hitSet_bit (cs : Vector Channel 8) (t : Watched) (n : Fin 8) :
    (hitSet cs t).getLsbD n.val = channelMatches cs[n] t := by
  have h : ∀ (b0 b1 b2 b3 b4 b5 b6 b7 : Bool) (n : Fin 8),
      ((if b0 then (1#8) <<< 0 else 0) ||| (if b1 then (1#8) <<< 1 else 0) ||| (if b2 then (1#8) <<< 2 else 0)
        ||| (if b3 then (1#8) <<< 3 else 0) ||| (if b4 then (1#8) <<< 4 else 0) ||| (if b5 then (1#8) <<< 5 else 0)
        ||| (if b6 then (1#8) <<< 6 else 0) ||| (if b7 then (1#8) <<< 7 else 0) : BitVec 8).getLsbD n.val
      = #v[b0, b1, b2, b3, b4, b5, b6, b7][n] := by decide
  have key := h (channelMatches cs[(0 : Fin 8)] t) (channelMatches cs[(1 : Fin 8)] t) (channelMatches cs[(2 : Fin 8)] t)
    (channelMatches cs[(3 : Fin 8)] t) (channelMatches cs[(4 : Fin 8)] t) (channelMatches cs[(5 : Fin 8)] t)
    (channelMatches cs[(6 : Fin 8)] t) (channelMatches cs[(7 : Fin 8)] t) n
  refine Eq.trans key ?_
  match n with
  | 0 => rfl
  | 1 => rfl
  | 2 => rfl
  | 3 => rfl
  | 4 => rfl
  | 5 => rfl
  | 6 => rfl
  | 7 => rfl

theorem hitSet_eq_zero {s : State} {t : Watched} : hitSet s.mu.channels t = 0 ↔ ∀ n, ¬ Matches s t n := by
  constructor
  · intro h n hn
    have := hitSet_bit s.mu.channels t n
    rw [h] at this
    simp only [Matches] at hn
    rw [hn] at this
    simp at this
  · intro h
    apply BitVec.eq_of_getLsbD_eq
    intro i hi
    have := hitSet_bit s.mu.channels t ⟨i, hi⟩
    simp only [Matches] at h
    simp only at this
    rw [this]
    simpa using h ⟨i, hi⟩

/-- R41: a report with no hits changes nothing in MU. -/
theorem recordHits_zero (s : State) : recordHits 0 s = s := by
  simp [recordHits, State.setMu]

/-! ### The lookup -/

theorem tagSlot_downTag (n : Fin 64) (g : Bool) : tagSlot (downTag n g) = n := by
  apply Fin.ext
  simp only [tagSlot, downTag, BitVec.toNat_ofNat]
  have := n.isLt
  cases g <;> simp <;> omega

theorem tagGen_downTag (n : Fin 64) (g : Bool) : tagGen (downTag n g) = g := by
  simp only [tagGen, downTag, BitVec.toNat_ofNat]
  have := n.isLt
  cases g <;> simp <;> omega

theorem lookup_matched {n : Fin 64} {r : Response} {s : State} (h : MatchedAt n r s) :
    lookup r.tag s = .matched ∧ tagSlot r.tag = n := by
  obtain ⟨_, _, ht, hl⟩ := h
  have hs : tagSlot r.tag = n := by rw [ht, tagSlot_downTag]
  have hg : tagGen r.tag = (entry s n).gen := by rw [ht, tagGen_downTag]
  simp [lookup, hs, hl, hg]

/-! ### The answer of RSP -/

/-- R174: without a trace RSP's answer is its only effect. -/
theorem answerResponse_untraced {f : Bool} {t : RspTxn} {s : State} (h : s.rsp.inProcess = some t)
    (ht : (entry s t.slot).traced = false) :
    answerResponse f s =
      s.setRsp { inProcess := some { t with phase := .offered (upstreamAnswer (entry s t.slot) t f) } } := by
  simp [answerResponse, h, ht]

/-- R174: RSP's answer in every case. -/
theorem answerResponse_rsp {f : Bool} {t : RspTxn} {s : State} (h : s.rsp.inProcess = some t) :
    (answerResponse f s).rsp
      = { inProcess := some { t with phase := .offered (upstreamAnswer (entry s t.slot) t f) } } := by
  simp [answerResponse, h]

/-- R174: the evaluation of a response that meets no channel, of an untraced entry. -/
theorem evaluateResponse_noHits {n : Fin 64} {st : DownStatus} {d : List BeatData} {s : State}
    (h : ∀ k, ¬ Matches s (watchedResponse (entry s n) st d) k) (ht : (entry s n).traced = false) :
    evaluateResponse n st d s = s.setRsp
      ⟨some ⟨n, .offered ⟨(entry s n).tag, (entry s n).initiator, upStatus st, d⟩, st, d⟩⟩ := by
  have hz := hitSet_eq_zero.2 h
  have he : ∀ x, entry (s.setRsp x) n = entry s n := fun x => entry_congr (by simp) n
  simp only [evaluateResponse, hz, recordHits_zero]
  have hr : ∀ t : RspTxn, (s.setRsp ⟨some t⟩).rsp.inProcess = some t := fun t => rfl
  rw [if_pos trivial, answerResponse_untraced (hr _) (by simpa only [he] using ht)]
  simp only [upstreamAnswer, State.setRsp]
  rfl

/-- R174: the evaluation of a response that meets channels. -/
theorem evaluateResponse_hits {n : Fin 64} {st : DownStatus} {d : List BeatData} {s : State}
    (h : ∃ k, Matches s (watchedResponse (entry s n) st d) k) :
    evaluateResponse n st d s =
      { s with
        mu := (recordHits (hitSet s.mu.channels (watchedResponse (entry s n) st d)) s).mu
        tsq := { s.tsq with rspReport := some (hitSet s.mu.channels (watchedResponse (entry s n) st d)) }
        rsp := { inProcess := some { slot := n, phase := .verdictWait, status := st, data := d } } } := by
  have hz : hitSet s.mu.channels (watchedResponse (entry s n) st d) ≠ 0 := fun hh => by
    obtain ⟨k, hk⟩ := h; exact hitSet_eq_zero.1 hh k hk
  simp only [evaluateResponse, if_neg hz]
  simp [recordHits, State.setRsp, State.setMu, State.setTsq]

end Sys2Proof.Machine
end

