-- ==== Sys2Proof/Laws/Claims.lean ====
section
/-! SUPPORT. Expiries and claims (R14 to R17): what each does to the slot it concerns, and that it leaves every other
slot and every path alone. -/
namespace Sys2Proof.Machine

theorem bound_false {s : State} {n : Fin 64} :
    bound s n = false ↔ ∀ t, s.rsp.inProcess = some t → t.slot ≠ n := by
  unfold bound
  cases s.rsp.inProcess <;> simp

theorem due_iff {s : State} {n : Fin 64} : due s n = true ↔ Due s n := by
  simp only [due, Due, Bool.and_eq_true, decide_eq_true_eq, Bool.not_eq_true', bound_false]
  exact ⟨fun ⟨⟨⟨a, b⟩, c⟩, d⟩ => ⟨a, b, c, d⟩, fun ⟨a, b, c, d⟩ => ⟨⟨⟨a, b⟩, c⟩, d⟩⟩

theorem due_congr {s t : State} (h1 : t.ott = s.ott) (h2 : t.rsp = s.rsp) (n : Fin 64) : due t n = due s n := by
  unfold due bound entry; rw [h1, h2]

/-! ### Settling a waiting request leaves OTT and the occupation of RQP alone -/

theorem settleRoom_isSome (s : State) : (settleRoom s).rqp.inProcess.isSome = s.rqp.inProcess.isSome := by
  unfold settleRoom
  split
  · rename_i t ht
    split
    · dsimp only
      split
      · unfold beginOffer
        split <;> simp [setTxn, ht]
      · simp
    · rfl
  · rfl

theorem settleRoom_held (s : State) :
    (settleRoom s).rqp.held = s.rqp.held ∧ (settleRoom s).rqp.holdAge = s.rqp.holdAge
    ∧ (settleRoom s).rqp.holdLimit = s.rqp.holdLimit := by
  unfold settleRoom beginOffer
  dsimp only
  (repeat' split) <;> simp [setTxn]

/-- Settling changes nothing in the request but its phase. -/
theorem settleRoom_inProcess {s : State} {t : RqpTxn} (h : s.rqp.inProcess = some t) :
    ∃ p, (settleRoom s).rqp.inProcess = some { t with phase := p }
      ∧ (p = t.phase ∨ t.phase = .roomWait ∧ s.rqp.held = false ∧ ∃ n, p = .offered n ∧ LowestFree s n) := by
  unfold settleRoom
  rw [h]
  dsimp only
  split
  · rename_i hr
    split
    · rename_i hc
      simp only [Bool.and_eq_true, Bool.not_eq_true', grantClaim_frame] at hc
      unfold beginOffer
      split
      · rename_i n hn
        refine ⟨.offered n, by simp [setTxn], .inr ⟨hr, hc.2, n, rfl, ?_⟩⟩
        rw [lowestFree_congr (grantClaim_frame s).1] at hn
        exact lowestFree_eq_some.1 hn
      · exact ⟨t.phase, by simp [h], .inl rfl⟩
    · exact ⟨t.phase, by simp [h], .inl rfl⟩
  · exact ⟨t.phase, by simp [h], .inl rfl⟩

/-- A request that is not in ROOM_WAIT is left as it is. -/
theorem settleRoom_same {s : State} (h : ∀ t, s.rqp.inProcess = some t → t.phase ≠ .roomWait) :
    settleRoom s = s := by
  unfold settleRoom
  split
  · rename_i t ht; rw [if_neg (h t ht)]
  · rfl

/-- R123, R169: a request in ROOM_WAIT whose claim now has room gets it and begins its offer. -/
theorem settleRoom_grants {s : State} {t : RqpTxn} {c : Capture} {n : Fin 64} (h : s.rqp.inProcess = some t)
    (hp : t.phase = .roomWait) (hh : s.rqp.held = false) (hc : s.tcu.capture = some c) (hg : c.granted = false)
    (h0 : 0 < c.claimSize) (hr : c.claimSize ≤ freeSlots s) (hn : LowestFree s n) :
    settleRoom s = { s with
      rqp := { s.rqp with inProcess := some { t with phase := .offered n } }
      tcu := { s.tcu with capture := some { c with granted := true } } } := by
  have hgr : grantClaim s = setCapture (some { c with granted := true }) s := by simp [grantClaim, hc, hg, h0, hr]
  have hcs : claimSatisfied (setCapture (some { c with granted := true }) s) = true := by
    simp [claimSatisfied, setCapture]
  have hl : LowestFree (setCapture (some { c with granted := true }) s) n := by simpa [LowestFree] using hn
  simp only [settleRoom, h, hp, if_true, hgr, hcs, setCapture_frame, hh, Bool.not_false, Bool.and_true]
  rw [beginOffer_lowest hl, ← hh]
  rfl

/-- R80, R169: a request in ROOM_WAIT whose claim is satisfied begins its offer once the hold is not in effect. -/
theorem settleRoom_begins {s : State} {t : RqpTxn} {n : Fin 64} (h : s.rqp.inProcess = some t)
    (hp : t.phase = .roomWait) (hh : s.rqp.held = false) (hc : claimSatisfied s = true) (hn : LowestFree s n) :
    settleRoom s = setTxn (some { t with phase := .offered n }) s := by
  have hgr : grantClaim s = s := by
    unfold grantClaim
    split
    · rename_i c hcap
      rw [if_neg]
      simp only [claimSatisfied, hcap, Bool.or_eq_true, decide_eq_true_eq] at hc
      rcases hc with hc | hc <;> simp [hc]
    · rfl
  simp only [settleRoom, h, hp, if_true, hgr, hc, hh, Bool.not_false, Bool.and_true]
  rw [beginOffer_lowest hn]

theorem timeoutRecord_isSome (n : Fin 64) (s : State) :
    (timeoutRecord n s).rqp.inProcess.isSome = s.rqp.inProcess.isSome := by
  unfold timeoutRecord
  dsimp only
  split <;> simp [settleRoom_isSome]

/-! ### One expiry under ABANDON -/

theorem timeoutRecord_entry (n : Fin 64) (s : State) (m : Fin 64) :
    entry (timeoutRecord n s) m = if m = n ∧ (entry s n).traced = true then (entry s n).untraced else entry s m := by
  unfold timeoutRecord
  dsimp only
  split
  · rename_i ht
    rw [entry_congr (settleRoom_frame _).1, entry_setEntry]
    by_cases hm : m = n
    · subst hm
      obtain ⟨x, _, hx⟩ := offerRecord_entry
        (responseRecord .timeout (entry s m).initiator (entry s m).tag (slotCode m) (entry s m).age none
          s.tbs.timestamp) (.reservation m) none s m
      simp [ht, hx, Entry.untraced]
    · rw [if_neg hm, if_neg (fun h => hm h.1)]
      exact offerRecord_entry_other (fun h => hm (by cases h; rfl))
  · rename_i ht; rw [if_neg (fun h => ht h.2)]

/-- R16: what the expiry under ABANDON leaves in the slot. -/
def Entry.abandoned (e : Entry) : Entry :=
  if e.traced then { e with state := .orphaned, traced := false, reservation := 0 } else { e with state := .orphaned }

/-- R16: the synthesized response of an expiry under ABANDON. -/
def timeoutAnswer (e : Entry) : UpResponse := ⟨e.tag, e.initiator, .timeout, []⟩

theorem abandon_entry (n : Fin 64) (s : State) (m : Fin 64) :
    entry (abandon n s) m = if m = n then (entry s n).abandoned else entry s m := by
  unfold abandon
  dsimp only
  split
  · split <;> simp only [timeoutRecord_entry, entry_timeoutAnomaly, entry_setChoices, entry_setEntry, entry_enqueue]
      <;> by_cases hm : m = n <;> simp [hm, Entry.abandoned, Entry.untraced]
  · simp only [timeoutRecord_entry, entry_timeoutAnomaly, entry_setEntry, entry_enqueue]
    by_cases hm : m = n <;> simp [hm, Entry.abandoned, Entry.untraced]

theorem abandon_rmg (n : Fin 64) (s : State) :
    (abandon n s).rmg = { s.rmg with queue := s.rmg.queue ++ [timeoutAnswer (entry s n)] } := by
  unfold abandon
  dsimp only
  (repeat' split) <;> simp [enqueue, timeoutAnswer]

theorem abandon_isSome (n : Fin 64) (s : State) : (abandon n s).rqp.inProcess.isSome = s.rqp.inProcess.isSome := by
  unfold abandon
  dsimp only
  (repeat' split) <;> simp [timeoutRecord_isSome]

/-! ### Expiry under REPORT -/

theorem expireReport_entry (n : Fin 64) (s : State) (m : Fin 64) :
    entry (expireReport n s) m
      = if m = n ∧ due s n = true then { entry s n with expired := true } else entry s m := by
  unfold expireReport
  split
  · rename_i h
    simp only [Bool.and_eq_true, Bool.not_eq_true'] at h
    rw [entry_congr (s := setEntry n { entry s n with expired := true } s) (by simp), entry_setEntry]
    by_cases hm : m = n <;> simp [hm, h.1]
  · rename_i h
    by_cases hm : m = n
    · subst hm
      cases hd : due s m
      · simp
      · have : (entry s m).expired = true := by simpa [hd] using h
        rw [if_pos ⟨rfl, rfl⟩]
        generalize entry s m = e at this
        cases e; simp_all
    · rw [if_neg (fun x => hm x.1)]

/-! ### All claims -/

/-- R17: under REPORT, or with nothing due, no claim is made. -/
theorem claimFor_none {s : State} {n : Fin 64} (h : s.ott.policy = .report ∨ ¬ Due s n) : claimFor s n = s := by
  unfold claimFor
  rcases h with h | h
  · simp [h]
  · have : due s n = false := by rw [← due_iff] at h; simpa using h
    simp [this]

theorem foldl_same {α : Type} {f : State → α → State} {s : State} (h : ∀ a, f s a = s) :
    ∀ l : List α, l.foldl f s = s
  | [] => rfl
  | a :: l => by rw [List.foldl_cons, h a]; exact foldl_same h l

theorem makeClaims_none {s : State} (h : s.ott.policy = .report ∨ ∀ n, ¬ Due s n) : makeClaims s = s := by
  refine foldl_same (fun n => ?_) slotNumbers
  rcases h with h | h
  · exact claimFor_none (.inl h)
  · exact claimFor_none (.inr (h n))

theorem claimFor_ott (s : State) (n : Fin 64) : (claimFor s n).ott.policy = s.ott.policy
    ∧ (claimFor s n).ott.timeout = s.ott.timeout ∧ (claimFor s n).ott.purgeCount = s.ott.purgeCount := by
  have h1 : ∀ (n : Fin 64) (s : State), (timeoutRecord n s).ott.policy = s.ott.policy
      ∧ (timeoutRecord n s).ott.timeout = s.ott.timeout ∧ (timeoutRecord n s).ott.purgeCount = s.ott.purgeCount := by
    intro n s
    unfold timeoutRecord
    dsimp only
    split <;> simp [offerRecord_table]
  unfold claimFor abandon
  dsimp only
  (repeat' split) <;> simp [h1]

/-- With no request waiting for room, an expiry leaves RQP alone. -/
theorem timeoutRecord_rqp {n : Fin 64} {s : State} (h : ∀ t, s.rqp.inProcess = some t → t.phase ≠ .roomWait) :
    (timeoutRecord n s).rqp = s.rqp := by
  unfold timeoutRecord
  dsimp only
  split
  · rw [settleRoom_same (by simpa using h)]; simp
  · rfl

theorem abandon_rqp {n : Fin 64} {s : State} (h : ∀ t, s.rqp.inProcess = some t → t.phase ≠ .roomWait) :
    (abandon n s).rqp = s.rqp := by
  unfold abandon
  dsimp only
  (repeat' split)
  · rw [timeoutRecord_rqp (by simpa using h)]; simp
  · rw [(timeoutAnomaly_frame ..).2.2.1, timeoutRecord_rqp (by simpa using h)]; simp
  · rw [timeoutRecord_rqp (by simpa using h)]; simp

/-- R16, R17: what one slot's claim does: nothing, or the expiry of a due slot into a free position. -/
theorem claimFor_cases (s : State) (n : Fin 64) :
    claimFor s n = s ∨ (claimFor s n = abandon n s ∧ s.ott.policy = .abandon ∧ Due s n
      ∧ s.rmg.queue.length + reservedPositions s < Config.queuePositions) := by
  unfold claimFor
  split
  · rename_i h
    simp only [Bool.and_eq_true, decide_eq_true_eq] at h
    exact .inr ⟨rfl, h.1.1, due_iff.1 h.1.2, positionFree_iff.1 h.2⟩
  · exact .inl rfl

theorem reservedPositions_congr {s t : State} (h : t.rqp.inProcess.isSome = s.rqp.inProcess.isSome) :
    reservedPositions t = reservedPositions s := by simp [reservedPositions, h]

theorem Entry.abandoned_fields (e : Entry) : e.abandoned.state = .orphaned ∧ e.abandoned.tag = e.tag
    ∧ e.abandoned.initiator = e.initiator ∧ e.abandoned.gen = e.gen ∧ e.abandoned.age = e.age
    ∧ e.abandoned.traced = false ∧ e.abandoned.kind = e.kind ∧ e.abandoned.lenM1 = e.lenM1
    ∧ e.abandoned.stamp = e.stamp ∧ e.abandoned.expired = e.expired := by
  unfold Entry.abandoned
  split <;> simp_all

theorem slotNumbers_split (n : Fin 64) : ∃ before after, slotNumbers = before ++ n :: after ∧ ∀ m ∈ before, m < n := by
  refine ⟨slotNumbers.take n.val, slotNumbers.drop (n.val + 1), ?_, fun m hm => ?_⟩
  · have h : n.val < slotNumbers.length := by simp [slotNumbers]
    have h2 : slotNumbers[n.val] = n := by simp [slotNumbers]
    have := List.take_append_drop n.val slotNumbers
    rw [List.drop_eq_getElem_cons h, h2] at this
    exact this.symm
  · obtain ⟨i, hi, rfl⟩ := List.getElem_of_mem hm
    simp only [List.length_take, slotNumbers, List.length_finRange] at hi
    simp only [List.getElem_take, slotNumbers, Fin.lt_def]
    simp
    omega

/-- R16, R141: a TIMEOUT handed on sets the class flag. -/
theorem takeAnomaly_flag (a : Anomaly) (s : State) (i : Nat) (h : s.ans.flags.getLsbD i = true) :
    (takeAnomaly a s).ans.flags.getLsbD i = true := by simp [takeAnomaly_ans, recordAnomaly] at *; simp [h]

theorem abandon_flag (n : Fin 64) (s : State) :
    (s.ans.flags.getLsbD 5 = true ∨ (entry s n).expired = false) → (abandon n s).ans.flags.getLsbD 5 = true := by
  intro h
  have key : ∀ t : State, t.ans = s.ans →
      (timeoutAnomaly n (entry s n) t).ans.flags.getLsbD 5 = true := by
    intro t ht
    unfold timeoutAnomaly
    split
    · rename_i hx
      rw [ht]
      rcases h with h | h
      · exact h
      · simp [hx] at h
    · have hb : AnomalyClass.timeout.bit.getLsbD 5 = true := by decide
      rw [takeAnomaly_ans]
      simp only [recordAnomaly, entryAnomaly, State.setAns_ans, BitVec.getLsbD_or, hb, Bool.or_true]
  unfold abandon
  dsimp only
  split
  · split
    · rw [(timeoutRecord_frame ..).2.2.2.2.1]; exact key _ (by simp)
    · exact key _ (by simp)
  · rw [(timeoutRecord_frame ..).2.2.2.2.1]; exact key _ (by simp)

/-- R17: the lowest-numbered due slot claims a free position, before every other. -/
theorem makeClaims_lowest {s : State} {n : Fin 64} (hp : s.ott.policy = .abandon) (hd : Due s n)
    (hlow : ∀ m : Fin 64, m < n → ¬ Due s m)
    (hroom : s.rmg.queue.length + reservedPositions s < Config.queuePositions) :
    entry (makeClaims s) n = (entry s n).abandoned
    ∧ (∃ q, (makeClaims s).rmg = { s.rmg with queue := s.rmg.queue ++ timeoutAnswer (entry s n) :: q })
    ∧ (makeClaims s).rmg.queue.length + reservedPositions (makeClaims s) ≤ Config.queuePositions
    ∧ ((entry s n).expired = false → (makeClaims s).ans.flags.getLsbD 5 = true) := by
  obtain ⟨before, after, hs, hb⟩ := slotNumbers_split n
  have h1 : before.foldl claimFor s = s := by
    have : ∀ l : List (Fin 64), (∀ m ∈ l, m < n) → l.foldl claimFor s = s := by
      intro l; induction l with
      | nil => intro _; rfl
      | cons a l ih =>
        intro hl
        rw [List.foldl_cons, claimFor_none (.inr (hlow a (hl a (by simp))))]
        exact ih (fun m hm => hl m (by simp [hm]))
    exact this before hb
  have h2 : claimFor s n = abandon n s := by
    simp [claimFor, hp, due_iff.2 hd, positionFree_iff.2 hroom]
  simp only [makeClaims, hs, List.foldl_append, List.foldl_cons, h1, h2]
  refine foldl_kept claimFor (fun t => entry t n = (entry s n).abandoned
    ∧ (∃ q, t.rmg = { s.rmg with queue := s.rmg.queue ++ timeoutAnswer (entry s n) :: q })
    ∧ t.rmg.queue.length + reservedPositions t ≤ Config.queuePositions
    ∧ ((entry s n).expired = false → t.ans.flags.getLsbD 5 = true)) ?_ after _ ?_
  · rintro t m ⟨he, ⟨q, hq⟩, hl, hfl⟩
    rcases claimFor_cases t m with h | ⟨h, _, hdm, hrm⟩
    · rw [h]; exact ⟨he, ⟨q, hq⟩, hl, hfl⟩
    · rw [h]
      have hmn : n ≠ m := fun x => by
        have := hdm.1
        rw [← x, he, (Entry.abandoned_fields _).1] at this
        cases this
      refine ⟨by rw [abandon_entry, if_neg hmn, he], ⟨q ++ [timeoutAnswer (entry t m)], ?_⟩, ?_, fun hx => ?_⟩
      · rw [abandon_rmg, hq]; simp
      · rw [abandon_rmg, reservedPositions_congr (abandon_isSome m t)]; simp; omega
      · exact abandon_flag m t (.inl (hfl hx))
  · refine ⟨by simp [abandon_entry], ⟨[], by rw [abandon_rmg]⟩, ?_, fun hx => abandon_flag n s (.inr hx)⟩
    rw [abandon_rmg, reservedPositions_congr (abandon_isSome n s)]; simp; omega

/-- A pass over the slots in which only slot `n` acts is that one act. -/
theorem foldl_once {f : State → Fin 64 → State} {s : State} {n : Fin 64} (h1 : ∀ m, m ≠ n → f s m = s)
    (h2 : ∀ m, m ≠ n → f (f s n) m = f s n) : slotNumbers.foldl f s = f s n := by
  have hsame : ∀ (t : State) (l : List (Fin 64)), (∀ m ∈ l, f t m = t) → l.foldl f t = t := by
    intro t l
    induction l with
    | nil => intro _; rfl
    | cons a l ih => intro h; rw [List.foldl_cons, h a (by simp)]; exact ih (fun m hm => h m (by simp [hm]))
  have hnd : slotNumbers.Nodup := List.nodup_finRange 64
  obtain ⟨before, after, hs, _⟩ := slotNumbers_split n
  rw [hs, List.nodup_append, List.nodup_cons] at hnd
  rw [hs, List.foldl_append, hsame s before (fun m hm => h1 m (fun e => hnd.2.2 m hm n (by simp) e)), List.foldl_cons]
  exact hsame _ after (fun m hm => h2 m (fun e => hnd.2.1.1 (e ▸ hm)))

/-- R14: an expiry under ABANDON makes no other slot due. -/
theorem abandon_due {n m : Fin 64} {s : State} (hm : m ≠ n) : Due (abandon n s) m ↔ Due s m := by
  have he := abandon_entry n s m
  rw [if_neg hm] at he
  have h1 : (abandon n s).rsp = s.rsp := by
    unfold abandon; dsimp only; (repeat' split) <;> simp
  have h2 : (abandon n s).ott.timeout = s.ott.timeout := by
    have g1 : ∀ s : State, (timeoutRecord n s).ott.timeout = s.ott.timeout := by
      intro s; unfold timeoutRecord; dsimp only; split
      · simp [offerRecord_table]
      · rfl
    have g2 : ∀ e s, (timeoutAnomaly n e s).ott.timeout = s.ott.timeout := by
      intro e s; unfold timeoutAnomaly; split <;> simp
    unfold abandon; dsimp only; (repeat' split) <;> simp [g1, g2, enqueue]
  simp only [Due, he, h1, h2]

/-- R17: with one due slot and a free position the claims are that slot's expiry. -/
theorem makeClaims_only {s : State} {n : Fin 64} (hp : s.ott.policy = .abandon) (hd : Due s n)
    (ho : ∀ m, m ≠ n → ¬ Due s m) (hroom : s.rmg.queue.length + reservedPositions s < Config.queuePositions) :
    makeClaims s = abandon n s := by
  have h : claimFor s n = abandon n s := by simp [claimFor, hp, due_iff.2 hd, positionFree_iff.2 hroom]
  rw [← h]
  exact foldl_once (fun m hm => claimFor_none (.inr (ho m hm)))
    (fun m hm => claimFor_none (.inr (by rw [h, abandon_due hm]; exact ho m hm)))

/-- What every expiry under ABANDON keeps, the claims keep. -/
theorem makeClaims_kept {P : State → Prop} (h : ∀ (t : State) (n : Fin 64), P t → t.ott.policy = .abandon → Due t n →
    t.rmg.queue.length + reservedPositions t < Config.queuePositions → P (abandon n t)) {s : State} (hs : P s) :
    P (makeClaims s) := by
  refine foldl_kept claimFor P (fun t n ht => ?_) slotNumbers s hs
  rcases claimFor_cases t n with he | ⟨he, h1, h2, h3⟩
  · rw [he]; exact ht
  · rw [he]; exact h t n ht h1 h2 h3

/-! ### The claims at the take of a queued response (R176, R167) -/

/-- R17: with one position left nothing is claimed when an offered request goes first. -/
theorem makeClaimsKeepingOne_last {s : State}
    (h : Config.queuePositions ≤ s.rmg.queue.length + reservedPositions s + 1) : makeClaimsKeepingOne s = s :=
  foldl_same (fun n => by unfold claimKeepingOne; rw [if_neg (by omega)]) slotNumbers

/-- R17, R167: with a position to spare the lowest-numbered due slot claims it, and one position stays free. -/
theorem makeClaimsKeepingOne_lowest {s : State} {n : Fin 64} (hp : s.ott.policy = .abandon) (hd : Due s n)
    (hlow : ∀ m : Fin 64, m < n → ¬ Due s m)
    (hroom : s.rmg.queue.length + reservedPositions s + 1 < Config.queuePositions) :
    entry (makeClaimsKeepingOne s) n = (entry s n).abandoned
    ∧ (∃ q, (makeClaimsKeepingOne s).rmg = { s.rmg with queue := s.rmg.queue ++ timeoutAnswer (entry s n) :: q })
    ∧ (makeClaimsKeepingOne s).rmg.queue.length + reservedPositions (makeClaimsKeepingOne s) + 1
        ≤ Config.queuePositions := by
  obtain ⟨before, after, hs, hb⟩ := slotNumbers_split n
  have h0 : ∀ m, ¬ Due s m → claimKeepingOne s m = s := fun m h => by
    simp only [claimKeepingOne, claimFor_none (.inr h), ite_self]
  have h1 : ∀ l : List (Fin 64), (∀ m ∈ l, m < n) → l.foldl claimKeepingOne s = s := by
    intro l; induction l with
    | nil => intro _; rfl
    | cons a l ih =>
      intro hl
      rw [List.foldl_cons, h0 a (hlow a (hl a (by simp)))]
      exact ih (fun m hm => hl m (by simp [hm]))
  have h2 : claimKeepingOne s n = abandon n s := by
    rw [claimKeepingOne, if_pos hroom]
    have hf : positionFree s = true := positionFree_iff.2 (by omega)
    simp [claimFor, hp, due_iff.2 hd, hf]
  simp only [makeClaimsKeepingOne, hs, List.foldl_append, List.foldl_cons, h1 before hb, h2]
  refine foldl_kept claimKeepingOne (fun t => entry t n = (entry s n).abandoned
    ∧ (∃ q, t.rmg = { s.rmg with queue := s.rmg.queue ++ timeoutAnswer (entry s n) :: q })
    ∧ t.rmg.queue.length + reservedPositions t + 1 ≤ Config.queuePositions) ?_ after _ ?_
  · rintro t m ⟨he, ⟨q, hq⟩, hl⟩
    unfold claimKeepingOne
    split
    · rename_i hr
      rcases claimFor_cases t m with h | ⟨h, _, hdm, _⟩
      · rw [h]; exact ⟨he, ⟨q, hq⟩, hl⟩
      · rw [h]
        have hmn : n ≠ m := fun x => by
          have := hdm.1
          rw [← x, he, (Entry.abandoned_fields _).1] at this
          cases this
        refine ⟨by rw [abandon_entry, if_neg hmn, he], ⟨q ++ [timeoutAnswer (entry t m)], ?_⟩, ?_⟩
        · rw [abandon_rmg, hq]; simp
        · rw [abandon_rmg, reservedPositions_congr (abandon_isSome m t)]; simp; omega
    · exact ⟨he, ⟨q, hq⟩, hl⟩
  · refine ⟨by simp [abandon_entry], ⟨[], by rw [abandon_rmg]⟩, ?_⟩
    rw [abandon_rmg, reservedPositions_congr (abandon_isSome n s)]; simp; omega

/-- What every expiry under ABANDON keeps, the claims keep when an offered request goes first. -/
theorem makeClaimsKeepingOne_kept {P : State → Prop} (h : ∀ (t : State) (n : Fin 64), P t → t.ott.policy = .abandon →
    Due t n → t.rmg.queue.length + reservedPositions t + 1 < Config.queuePositions → P (abandon n t)) {s : State}
    (hs : P s) : P (makeClaimsKeepingOne s) := by
  refine foldl_kept claimKeepingOne P (fun t n ht => ?_) slotNumbers s hs
  unfold claimKeepingOne
  split
  · rename_i hr
    rcases claimFor_cases t n with he | ⟨he, h1, h2, _⟩
    · rw [he]; exact ht
    · rw [he]; exact h t n ht h1 h2 hr
  · exact ht

/-- What every expiry under ABANDON and every draw of a free value keep, the claims at a report keep. -/
theorem claimAtReport_kept {P : State → Prop} (h : ∀ (t : State) (n : Fin 64), P t → t.ott.policy = .abandon →
    Due t n → t.rmg.queue.length + reservedPositions t < Config.queuePositions → P (abandon n t)) {s : State}
    (hc : P (s.setChoices (s.choices + 1))) (hs : P s) : P (claimAtReport s) := by
  unfold claimAtReport
  dsimp only
  split
  · split
    · exact makeClaimsKeepingOne_kept (fun t n ht h1 h2 h3 => h t n ht h1 h2 (by omega)) hc
    · exact makeClaims_kept h hc
  · exact makeClaims_kept h hs

theorem requestOffered_iff {s : State} : requestOffered s = true ↔ ∃ r q, s.pending = .upstreamRequestTake r :: q := by
  unfold requestOffered
  cases h : s.pending with
  | nil => simp
  | cons c q => cases c <;> simp

theorem positionContested_iff {s : State} : positionContested s = true ↔
    s.ott.policy = .abandon ∧ (∃ n, Due s n) ∧ requestOffered s = true ∧ acceptsRequest s = true := by
  simp only [positionContested, Bool.and_eq_true, decide_eq_true_eq, List.any_eq_true, due_iff, and_assoc]
  constructor
  · rintro ⟨h1, ⟨n, _, h2⟩, h3, h4⟩; exact ⟨h1, ⟨n, h2⟩, h3, h4⟩
  · rintro ⟨h1, ⟨n, h2⟩, h3, h4⟩; exact ⟨h1, ⟨n, List.mem_finRange n, h2⟩, h3, h4⟩

/-- R176: with no offered request in the way the deferred claims are made at once. -/
theorem claimAtReport_plain {s : State} (h : positionContested s = false) : claimAtReport s = makeClaims s := by
  simp [claimAtReport, h]

theorem claimAtReport_none {s : State} (h : s.ott.policy = .report ∨ ∀ n, ¬ Due s n) : claimAtReport s = s := by
  rw [claimAtReport_plain, makeClaims_none h]
  rw [← Bool.not_eq_true, positionContested_iff]
  rintro ⟨h1, ⟨n, h2⟩, _⟩
  rcases h with h | h
  · rw [h1] at h; cases h
  · exact h n h2

/-! ### The REQUEST record -/

theorem requestRecord_length (r : Request) (w : Bool) (n : Fin 64) (s : State) :
    (requestRecord r w n s).length ≤ if w then 4 else 2 := by
  unfold requestRecord
  split <;> cases w <;> simp [requestDelta, requestFull, requestData, dataSlots]

theorem requestRecord_congr {s t : State} (h1 : t.tcu = s.tcu) (h2 : t.tbs = s.tbs) (r : Request) (w : Bool)
    (n : Fin 64) : requestRecord r w n t = requestRecord r w n s := by
  simp [requestRecord, takesDelta, needsSync, h1, h2]

/-- R96: the REQUEST record of a granted claim, and what it leaves in the entry. -/
theorem placeRequest_granted {r : Request} {n : Fin 64} {c : Capture} {s : State} (hc : s.tcu.capture = some c)
    (hm : modeOf s = .streamStall)
    (h : slotsOf (composeGroup (requestRecord r c.withData n s) s) + c.responseReservation ≤ freeSlots s) :
    placeRequest r n s = setEntry n { entry s n with traced := true, reservation := c.responseReservation }
      (setCapture none ((appendGroup (composeGroup (requestRecord r c.withData n s) s) (fill s) s).setTcu
        (groupPlaced (needsLoss s) (needsSync s) (some (r.addr, r.context)) s.tbs.timestamp s.tcu))) := by
  simp only [placeRequest, hc, offerRecord_claim_fits hm h]
  simp

end Sys2Proof.Machine
end

