-- ==== Sys2Proof/Laws/Sequencer.lean ====
section
/-! SUPPORT. The arbiter, the counting of an input, the delivery of actions and the transition (R54 to R62). -/
namespace Sys2Proof.Machine

theorem arbiterNext_iff {s : State} {i : Input} : arbiterNext s = some i ↔ NextInLine s i := by
  simp only [arbiterNext, NextInLine, List.find?_eq_some_iff_append]
  constructor
  · rintro ⟨hp, b, a, hr, hb⟩
    exact ⟨b, a, hr, hp, fun j hj => by simpa using hb j hj⟩
  · rintro ⟨b, a, hr, hp, hb⟩
    exact ⟨hp, b, a, hr, fun j hj => by simp [hb j hj]⟩

theorem NextInLine.pending {s : State} {i : Input} (h : NextInLine s i) : inputPending s.tsq i = true := h.choose_spec.choose_spec.2.1

theorem effectiveCount_eq (c : BitVec 12) : effectiveCount c = max 1 c.toNat := by
  unfold effectiveCount; split <;> omega

theorem advance_toNat {sources : BitVec 10} {x : Exit} {c : BitVec 12}
    (h : c.toNat + 1 = max 1 x.count.toNat) (hs : x.sources &&& sources ≠ 0) :
    reached x (advance sources x c) = true := by
  have hx := x.count.isLt
  simp only [advance, if_neg hs, reached, effectiveCount_eq, decide_eq_true_eq, BitVec.toNat_add]
  have : BitVec.toNat (1 : BitVec 12) = 1 := rfl
  rw [this]; omega

/-! ### Delivering actions (R58) -/

theorem hold_rqp (s : State) : (hold s).rqp.held = true
    ∧ (hold s).rqp.holdAge = (if s.rqp.held then s.rqp.holdAge else 0) ∧ (hold s).rqp.holdLimit = s.rqp.holdLimit
    ∧ (hold s).rqp.inProcess.isSome = s.rqp.inProcess.isSome := by
  unfold hold
  dsimp only
  by_cases hh : s.rqp.held = true
  · simp only [if_pos hh]
    (repeat' split) <;> simp_all [setTxn]
  · simp only [if_neg hh]
    (repeat' split) <;> simp_all [setTxn]

/-- HOLD moves an offered request to the hold point and leaves every other where it is (R78). -/
theorem hold_inProcess (s : State) : (hold s).rqp.inProcess = s.rqp.inProcess.map (fun t =>
    match t.phase with
    | .offered _ => { t with phase := .holdPoint }
    | _ => t) := by
  unfold hold
  dsimp only
  by_cases hh : s.rqp.held = true
  · simp only [if_pos hh]
    cases hs : s.rqp.inProcess with
    | none => simp [hs]
    | some t => cases hp : t.phase <;> simp [hs, hp, setTxn]
  · simp only [if_neg hh, State.setRqp_rqp]
    cases hs : s.rqp.inProcess with
    | none => simp
    | some t => cases hp : t.phase <;> simp [hp, setTxn]

theorem settleRoom_tcu (s : State) : (settleRoom s).tcu.capturing = s.tcu.capturing
    ∧ (settleRoom s).tcu.byChannels = s.tcu.byChannels ∧ (settleRoom s).tcu.captureSet = s.tcu.captureSet
    ∧ (settleRoom s).tcu.firstBeat = s.tcu.firstBeat ∧ (settleRoom s).tcu.lossCount = s.tcu.lossCount
    ∧ (settleRoom s).tcu.syncNeeded = s.tcu.syncNeeded ∧ (settleRoom s).tcu.refValid = s.tcu.refValid
    ∧ (settleRoom s).tcu.refAddr = s.tcu.refAddr ∧ (settleRoom s).tcu.refContext = s.tcu.refContext
    ∧ (settleRoom s).tcu.lastSyncHigh = s.tcu.lastSyncHigh := by
  unfold settleRoom grantClaim
  dsimp only
  (repeat' split) <;> simp [setCapture]

/-- R58: what a delivery leaves in the blocks that the actions reach. -/
theorem deliver_spec (a : BitVec 7) (s : State) :
    (deliver a s).rqp.held = (Action.hold a || (s.rqp.held && !Action.release a))
    ∧ (deliver a s).rqp.holdAge
        = (if Action.hold a ∧ (s.rqp.held = false ∨ Action.release a) then 0 else s.rqp.holdAge)
    ∧ (deliver a s).tcu.capturing = (Action.captureOn a || (s.tcu.capturing && !Action.captureOff a))
    ∧ (deliver a s).pulse = (if Action.pulse a ∧ s.pulse = .low then .driving 0 else s.pulse)
    ∧ (deliver a s).alc = (raiseIf (Action.alert a) .seq s).alc
    ∧ (deliver a s).rqp.holdLimit = s.rqp.holdLimit
    ∧ (deliver a s).rqp.inProcess.isSome = s.rqp.inProcess.isSome := by
  unfold deliver
  dsimp only
  simp only [settleRoom_held, settleRoom_tcu, settleRoom_isSome, settleRoom_frame]
  cases Action.hold a <;> cases Action.release a <;> cases Action.captureOff a <;> cases Action.captureOn a <;>
    cases Action.pulse a <;> cases Action.alert a <;>
    simp only [raiseIf, if_true, if_false, Bool.false_eq_true] <;>
    simp [hold_rqp, releaseFlag, setCapturing, raise, startPulse] <;>
    (try (cases hp : s.pulse <;> simp [hold_rqp, hp])) <;> (try (cases s.rqp.held <;> simp))

/-- A delivery changes nothing in the request but its phase. -/
theorem deliver_inProcess {a : BitVec 7} {s : State} {t : RqpTxn} (h : s.rqp.inProcess = some t) :
    ∃ p, (deliver a s).rqp.inProcess = some { t with phase := p }
      ∧ (p = t.phase ∨ (∃ n, t.phase = .offered n) ∧ p = .holdPoint
        ∨ t.phase = .roomWait ∧ ∃ n, p = .offered n ∧ LowestFree s n) := by
  have key : ∀ s1 : State, s1.ott = s.ott →
      (∃ p, s1.rqp.inProcess = some { t with phase := p }
        ∧ (p = t.phase ∨ (∃ n, t.phase = .offered n) ∧ p = .holdPoint)) →
      ∃ p, (settleRoom s1).rqp.inProcess = some { t with phase := p }
      ∧ (p = t.phase ∨ (∃ n, t.phase = .offered n) ∧ p = .holdPoint
        ∨ t.phase = .roomWait ∧ ∃ n, p = .offered n ∧ LowestFree s n) := by
    rintro s1 ho ⟨p, hp, hq⟩
    obtain ⟨p', h1, h2⟩ := settleRoom_inProcess hp
    refine ⟨p', h1, ?_⟩
    rcases h2 with h2 | ⟨h2, _, n, h3, h4⟩
    · subst h2; rcases hq with hq | hq
      · exact .inl hq
      · exact .inr (.inl hq)
    · refine .inr (.inr ⟨?_, n, h3, ?_⟩)
      · rcases hq with hq | hq
        · rw [← hq]; exact h2
        · rw [hq.2] at h2; cases h2
      · simpa [LowestFree, entry_congr ho] using h4
  have hh : ∀ s1 : State, s1.rqp.inProcess = some t → ∃ p, (hold s1).rqp.inProcess = some { t with phase := p }
        ∧ (p = t.phase ∨ (∃ n, t.phase = .offered n) ∧ p = .holdPoint) := by
    intro s1 h1
    rw [hold_inProcess, h1]
    cases hp : t.phase with
    | offered n => exact ⟨.holdPoint, by simp [hp], .inr ⟨⟨n, rfl⟩, rfl⟩⟩
    | _ => exact ⟨t.phase, by simp only [Option.map_some, hp]; rw [← hp], .inl hp⟩
  unfold deliver
  dsimp only
  refine key _ ?_ ?_
  · (repeat' split) <;> simp
  · have h0 : (if Action.release a = true then releaseFlag s else s).rqp.inProcess = some t := by
      split <;> simp [releaseFlag, h]
    generalize (if Action.release a = true then releaseFlag s else s) = s1 at h0
    have h1 := hh _ h0
    by_cases hx : Action.hold a = true
    · simp only [if_pos hx]
      obtain ⟨p, hp, hq⟩ := h1
      exact ⟨p, by (repeat' split) <;> simpa using hp, hq⟩
    · simp only [if_neg hx]
      refine ⟨t.phase, ?_, .inl rfl⟩
      (repeat' split) <;> simpa using h0

/-- R76, R78, R80: what a delivery leaves of the request in RQP. -/
theorem deliver_request (a : BitVec 7) (s : State) : RequestFollowsActions a s (deliver a s) := by
  obtain ⟨s1, h1⟩ : ∃ x, x = (if Action.release a then releaseFlag s else s) := ⟨_, rfl⟩
  obtain ⟨s2, h2⟩ : ∃ x, x = (if Action.hold a then hold s1 else s1) := ⟨_, rfl⟩
  obtain ⟨s3, h3⟩ : ∃ x, deliver a s = settleRoom x ∧ x.rqp = s2.rqp ∧ x.ott = s2.ott ∧ x.tcu.capture = s2.tcu.capture :=
    ⟨_, rfl, by subst h2 h1; (repeat' split) <;> simp, by subst h2 h1; (repeat' split) <;> simp,
      by subst h2 h1; (repeat' split) <;> simp [setCapturing]⟩
  obtain ⟨hd, hr, ho, hc⟩ := h3
  have o2 : s2.ott = s.ott := by rw [h2, h1]; (repeat' split) <;> simp
  have c2 : s2.tcu = s.tcu := by rw [h2, h1]; (repeat' split) <;> simp
  have i1 : s1.rqp.inProcess = s.rqp.inProcess := by rw [h1]; split <;> simp [releaseFlag]
  have i2 : s2.rqp.inProcess = if Action.hold a then s.rqp.inProcess.map (fun t =>
      match t.phase with
      | .offered _ => { t with phase := .holdPoint }
      | _ => t) else s.rqp.inProcess := by
    rw [h2]; split
    · rw [hold_inProcess, i1]
    · exact i1
  have heldOn : Action.hold a = true → s2.rqp.held = true := fun h => by rw [h2, if_pos h]; exact (hold_rqp _).1
  have keep : (∀ t, s2.rqp.inProcess = some t → t.phase ≠ .roomWait) →
      (deliver a s).rqp.inProcess = s2.rqp.inProcess := fun h => by
    rw [hd, settleRoom_same (by rw [hr]; exact h), hr]
  refine ⟨fun h => ?_, fun x n h hp => ?_, fun x h hp hq => ?_, fun x h hp ha => ?_,
    fun x c n h hp ha hb hk hg hn => ?_, (deliver_spec a s).2.2.2.2.2.1⟩
  · have h0 : s2.rqp.inProcess = none := by rw [i2, h]; split <;> rfl
    rw [keep (by rw [h0]; exact nofun), h0]
  · by_cases ha : Action.hold a = true
    · have h0 : s2.rqp.inProcess = some { x with phase := .holdPoint } := by rw [i2, if_pos ha, h]; simp [hp]
      rw [keep (by rw [h0]; rintro t ⟨⟩; exact nofun), h0, if_pos ha]
    · have h0 : s2.rqp.inProcess = some x := by rw [i2, if_neg ha, h]
      rw [keep (by rw [h0]; rintro t ⟨⟩; rw [hp]; exact nofun), h0, if_neg ha]
  · have h0 : s2.rqp.inProcess = some x := by
      rw [i2, h]; split
      · cases hx : x.phase with
        | offered n => exact absurd hx (hp n)
        | _ => simp [hx]
      · rfl
    rw [keep (by rw [h0]; rintro t ⟨⟩; exact hq), h0]
  · have h0 : s2.rqp.inProcess = some x := by rw [i2, if_pos ha, h]; simp [hp]
    obtain ⟨p, hp1, hp2⟩ := settleRoom_inProcess (s := s3) (t := x) (by rw [hr]; exact h0)
    rw [hd, hp1]
    rcases hp2 with hp2 | ⟨_, hh, _⟩
    · rw [hp2]
    · rw [hr, heldOn ha] at hh; cases hh
  · have h0 : s2.rqp.inProcess = some x := by rw [i2, if_neg (by simp [ha]), h]
    have hh : s2.rqp.held = false := by rw [h2, if_neg (by simp [ha]), h1, if_pos hb]; simp [releaseFlag]
    rw [hd, settleRoom_begins (t := x) (n := n) (by rw [hr]; exact h0) hp (by rw [hr]; exact hh)
      (by unfold claimSatisfied; rw [hc, c2, hk]; simp [hg])
      (by simpa [LowestFree, entry_congr (ho.trans o2)] using hn)]
    simp [setTxn]

/-- With no request waiting for room a delivery leaves TCU but CAPTURING, OTT and the store alone. -/
theorem deliver_tcu {a : BitVec 7} {s : State} (h : NoneWaitsForRoom s) :
    (deliver a s).tcu = { s.tcu with capturing := (deliver a s).tcu.capturing } := by
  unfold deliver
  dsimp only
  rw [settleRoom_same]
  · cases Action.release a <;> cases Action.hold a <;> cases Action.captureOff a <;> cases Action.captureOn a <;>
      cases Action.pulse a <;> simp [setCapturing]
  · intro t ht
    have hm : ∀ s1 : State, s1.rqp.inProcess = s.rqp.inProcess → ∀ t, (hold s1).rqp.inProcess = some t →
        t.phase ≠ .roomWait := by
      intro s1 h1 t ht
      rw [hold_inProcess, h1, Option.map_eq_some_iff] at ht
      obtain ⟨x, hx, hy⟩ := ht
      cases hp : x.phase with
      | offered n => rw [hp] at hy; simp only at hy; rw [← hy]; exact nofun
      | _ => rw [hp] at hy; simp only at hy; rw [← hy]; exact h x hx
    cases hr : Action.release a <;> cases hh : Action.hold a <;>
      simp only [hr, hh, if_true, if_false, Bool.false_eq_true] at ht
    · exact h t (by revert ht; (repeat' split) <;> simp)
    · exact hm s rfl t (by revert ht; (repeat' split) <;> simp)
    · exact h t (by revert ht; (repeat' split) <;> simp [releaseFlag])
    · exact hm (releaseFlag s) (by simp [releaseFlag]) t (by revert ht; (repeat' split) <;> simp)

/-! ### Transitions (R57, R62) -/

theorem targetStage_isNone (t : BitVec 3) : (targetStage t).isNone = decide (4 ≤ t.toNat) := by
  unfold targetStage
  split
  · rename_i h; simp; omega
  · rename_i h; simp; omega

theorem enterTarget_eq (target : BitVec 3) (t : Tsq) : enterTarget target t = afterTransition target t := by
  unfold enterTarget afterTransition targetStage
  by_cases h : target.toNat < 4 <;> simp [h]

theorem transition_tsq (c : StageCause) (target : BitVec 3) (a : BitVec 7) (s : State) :
    (transition c target a s).tsq = afterTransition target s.tsq := by
  simp [transition, enterTarget_eq]

/-- A STAGE record leaves RQP, the pulse and CAPTURING to the actions. -/
theorem transition_delivered (c : StageCause) (target : BitVec 3) (a : BitVec 7) (s : State) :
    ActionsDelivered a target s (transition c target a s)
    ∧ (transition c target a s).alc.enable = s.alc.enable
    ∧ (transition c target a s).rqp.holdLimit = s.rqp.holdLimit
    ∧ (transition c target a s).rqp.inProcess = (deliver a s).rqp.inProcess := by
  have hd := deliver_spec a s
  have ha : ∀ r s1, s1.alc = (raiseIf (Action.alert a) .seq s).alc →
      ∀ i, i ≠ 2 → i ≠ 3 → (offerEvent r s1).alc.pending.getLsbD i
        = (s.alc.pending.getLsbD i || (Action.alert a && Cause.seq.bit.getLsbD i)) := by
    intro r s1 h i h2 h3
    rw [(offerEvent_alc r s1).2 i h2 h3, h, raiseIf_pending]
  have hp : ∀ i, i ≠ 2 → i ≠ 3 → (transition c target a s).alc.pending.getLsbD i
      = ((s.alc.pending.getLsbD i || (Action.alert a && Cause.seq.bit.getLsbD i))
          || (decide (4 ≤ target.toNat) && Cause.fired.bit.getLsbD i)) := by
    intro i h2 h3
    simp only [transition, raiseIf_pending, targetStage_isNone, State.setTsq_alc]
    rw [ha _ _ hd.2.2.2.2.1 i h2 h3]
  have s0 : Cause.seq.bit.getLsbD 0 = true := rfl
  have s1 : Cause.seq.bit.getLsbD 1 = false := rfl
  have s4 : Cause.seq.bit.getLsbD 4 = false := rfl
  have s5 : Cause.seq.bit.getLsbD 5 = false := rfl
  have f0 : Cause.fired.bit.getLsbD 0 = false := rfl
  have f1 : Cause.fired.bit.getLsbD 1 = false := rfl
  have f4 : Cause.fired.bit.getLsbD 4 = false := rfl
  have f5 : Cause.fired.bit.getLsbD 5 = true := rfl
  refine ⟨⟨?_, ?_, ?_, ?_, ?_, ?_, ?_, ?_⟩, ?_, ?_, ?_⟩
  · simpa [transition] using hd.1
  · simpa [transition] using hd.2.1
  · simp only [transition, raiseIf_frame, State.setTsq_tcu, offerEvent, offerRecord_tcu]; exact hd.2.2.1
  · simpa [transition] using hd.2.2.2.1
  · rw [hp 0 (by omega) (by omega), s0, f0]; simp
  · rw [hp 5 (by omega) (by omega), s5, f5]; simp
  · rw [hp 1 (by omega) (by omega), s1, f1]; simp
  · rw [hp 4 (by omega) (by omega), s4, f4]; simp
  · simp [transition, (offerEvent_alc _ _).1, hd.2.2.2.2.1]
  · simpa [transition] using hd.2.2.2.2.2.1
  · simp [transition]

/-- R57, R66: the STAGE record of a transition, with no request waiting for room. -/
theorem transition_record {c : StageCause} {target : BitVec 3} {a : BitVec 7} {s : State} (h : NoneWaitsForRoom s)
    {r : Record} (hr : r = stageRecord (BitVec.ofNat 3 s.tsq.stage.val) (stageField target) c a s.tbs.timestamp)
    (hf : FitsAsItIs s (composeGroup r s).flatten.length) :
    RecordStored r s (transition c target a s) ∧ (transition c target a s).tcu.capture = s.tcu.capture := by
  have hd := deliver_tcu (a := a) h
  have hg : composeGroup r (deliver a s) = composeGroup r s := by
    have h1 := congrArg Tcu.lossCount hd
    have h2 := congrArg Tcu.syncNeeded hd
    have h3 := congrArg Tcu.lastSyncHigh hd
    simp only at h1 h2 h3
    simp only [composeGroup, needsLoss, needsSync, deliver_frame, h1, h2, h3]; rfl
  have hr' : stageRecord (stageFrom s.tsq.stage) (stageTo target) c a (deliver a s).tbs.timestamp = r := by
    rw [hr, (deliver_frame a s).2.2.2.2.2.2.2.1]; rfl
  have hcl : claim (deliver a s) = claim s := claim_congr (by rw [hd])
  have hs := offerEvent_stored (r := r) (s := deliver a s) (by
    rw [hg]
    refine ⟨by rw [modeOf_congr (s := s) (by simp)]; exact hf.1, fun hm => ?_, ?_⟩
    · rw [modeOf_congr (s := s) (by simp)] at hm; simpa using hf.2.1 hm
    · rw [hcl, fill_congr (s := s) (by simp), reserved_congr (s := s) (by simp)]; exact hf.2.2)
  obtain ⟨⟨h1, h2, h3, h4⟩, _⟩ := hs
  have ht : (transition c target a s).tst = (offerEvent r (deliver a s)).tst
      ∧ (transition c target a s).tcu = (offerEvent r (deliver a s)).tcu := by
    simp only [transition, hr']; simp
  refine ⟨⟨?_, by rw [ht.2]; exact h2, by rw [ht.2]; exact h3, ?_⟩, ?_⟩
  · rw [ht.1, h1, hg]; simp
  · rw [ht.2, h4]; simp
  · rw [ht.2, offerEvent, (offerRecord_tcu ..).2.2.2.2, hd]

/-- R57, R58, R66: what a transition on an input taken from its latch does. -/
theorem transition_taken (c : StageCause) (target : BitVec 3) (a : BitVec 7) (i : Input) (s : State) :
    TransitionTaken c target a (takeInput i s).tsq s (transition c target a (takeInput i s)) := by
  have hd := transition_delivered c target a (takeInput i s)
  have hq := deliver_request a (takeInput i s)
  refine ⟨?_, ?_, fun h r hr hf => ?_, transition_tsq .., ?_⟩
  · exact hd.1
  · have ht := hd.2.2.2
    obtain ⟨q1, q2, q3, q4, q5, q6⟩ := hq
    rw [← ht] at q1
    refine ⟨fun h => q1 h, fun x n h hp => ?_, fun x h hp hp2 => ?_, fun x h hp ha => ?_, fun x c n h hp ha hb hk hg hn => ?_, hd.2.2.1⟩
    · rw [ht]; exact q2 x n h hp
    · rw [ht]; exact q3 x h hp hp2
    · rw [ht]; exact q4 x h hp ha
    · rw [ht]; exact q5 x c n h hp ha hb hk hg hn
  · have hst : (takeInput i s).tsq.stage = s.tsq.stage := by cases i <;> rfl
    exact (transition_record (s := takeInput i s) h (by rw [hst]; exact hr) hf).1
  · simp [hd.2.1]

/-- `ActionsDelivered` reads of its first state RQP, TCU, the pulse and ALC alone, and of its second RQP's hold,
CAPTURING, the pulse and the pending set. -/
theorem ActionsDelivered.of_eq {a : BitVec 7} {x : BitVec 3} {s s' t t' : State} (h : ActionsDelivered a x s' t')
    (h1 : s'.rqp.held = s.rqp.held) (h2 : s'.rqp.holdAge = s.rqp.holdAge)
    (h3 : s'.tcu.capturing = s.tcu.capturing) (h4 : s'.pulse = s.pulse) (h5 : s'.alc = s.alc)
    (g1 : t'.rqp.held = t.rqp.held) (g2 : t'.rqp.holdAge = t.rqp.holdAge)
    (g3 : t'.tcu.capturing = t.tcu.capturing) (g4 : t'.pulse = t.pulse)
    (g5 : ∀ i, i ≠ 2 → i ≠ 3 → t'.alc.pending.getLsbD i = t.alc.pending.getLsbD i) :
    ActionsDelivered a x s t := by
  obtain ⟨a1, a2, a3, a4, a5, a6, a7, a8⟩ := h
  rw [h1, g1] at a1
  rw [h2, h1, g2] at a2
  rw [h3, g3] at a3
  rw [h4, g4] at a4
  rw [h5, g5 0 (by omega) (by omega)] at a5
  rw [h5, g5 5 (by omega) (by omega)] at a6
  rw [h5, g5 1 (by omega) (by omega)] at a7
  rw [h5, g5 4 (by omega) (by omega)] at a8
  exact ⟨a1, a2, a3, a4, a5, a6, a7, a8⟩

/-- R60: an input that brings no exit to its count. -/
theorem countInput_counts {sources : BitVec 10} {s : State} (ha : s.tsq.state = .armed)
    (h0 : (advance sources (currentStage s).exit0 s.tsq.counter0).toNat < effectiveCount (currentStage s).exit0.count)
    (h1 : (advance sources (currentStage s).exit1 s.tsq.counter1).toNat < effectiveCount (currentStage s).exit1.count) :
    countInput sources s = (false, s.setTsq { s.tsq with
      counter0 := advance sources (currentStage s).exit0 s.tsq.counter0,
      counter1 := advance sources (currentStage s).exit1 s.tsq.counter1 }) := by
  have r0 : reached (currentStage s).exit0 (advance sources (currentStage s).exit0 s.tsq.counter0) = false := by
    simp only [reached]; exact decide_eq_false (by omega)
  have r1 : reached (currentStage s).exit1 (advance sources (currentStage s).exit1 s.tsq.counter1) = false := by
    simp only [reached]; exact decide_eq_false (by omega)
  simp [countInput, ha, r0, r1]

/-- R61: outside ARMED an input is not counted. -/
theorem countInput_outside {sources : BitVec 10} {s : State} (ha : s.tsq.state ≠ .armed) :
    countInput sources s = (false, s) := by
  unfold countInput
  split
  · rename_i h; exact absurd h ha
  · rfl
  · rfl

/-- R56: exit 0 has precedence. -/
theorem countInput_exit0 {sources : BitVec 10} {s : State} (ha : s.tsq.state = .armed)
    (h : reached (currentStage s).exit0 (advance sources (currentStage s).exit0 s.tsq.counter0) = true) :
    countInput sources s = (Action.fence (currentStage s).exit0.actions,
      transition .exit0 (currentStage s).exit0.target (currentStage s).exit0.actions s) := by
  simp [countInput, ha, h]

theorem countInput_exit1 {sources : BitVec 10} {s : State} (ha : s.tsq.state = .armed)
    (h0 : reached (currentStage s).exit0 (advance sources (currentStage s).exit0 s.tsq.counter0) = false)
    (h : reached (currentStage s).exit1 (advance sources (currentStage s).exit1 s.tsq.counter1) = true) :
    countInput sources s = (Action.fence (currentStage s).exit1.actions,
      transition .exit1 (currentStage s).exit1.target (currentStage s).exit1.actions s) := by
  simp [countInput, ha, h0, h]

/-- R56: the exit that an input brings to its count is taken. -/
theorem countInput_reached {x : Exit} {cause : StageCause} {sources : BitVec 10} {s : State} (i : Input)
    (ha : s.tsq.state = .armed) (h : ExitReached x cause sources s) :
    countInput sources (takeInput i s)
      = (Action.fence x.actions, transition cause x.target x.actions (takeInput i s)) := by
  have hcs : currentStage (takeInput i s) = currentStage s := by cases i <;> simp [currentStage, takeInput, clearLatch]
  have h0 : (takeInput i s).tsq.counter0 = s.tsq.counter0 := by cases i <;> simp [takeInput, clearLatch]
  have h1 : (takeInput i s).tsq.counter1 = s.tsq.counter1 := by cases i <;> simp [takeInput, clearLatch]
  have hs : (takeInput i s).tsq.state = .armed := by cases i <;> simpa [takeInput, clearLatch] using ha
  rcases h with ⟨rfl, rfl, hx, hcnt⟩ | ⟨rfl, rfl, hx, hcnt, hlt⟩
  · rw [countInput_exit0 hs (by rw [hcs, h0]; exact advance_toNat hcnt hx), hcs]
  · rw [countInput_exit1 hs (by
      rw [hcs, h0]; simp only [reached, effectiveCount_eq, advance]; exact decide_eq_false (by omega))
      (by rw [hcs, h1]; exact advance_toNat hcnt hx), hcs]

end Sys2Proof.Machine
end

