-- ==== Sys2Proof/Laws/Time.lean ====
section
/-! SUPPORT. The tick in each of its consumers (R12 to R17, R63, R73, R81, R154 to R156). -/
namespace Sys2Proof.Machine

theorem satInc_toNat {w : Nat} (x : BitVec w) : (satInc x).toNat = min (x.toNat + 1) (2 ^ w - 1) := by
  have hx := x.isLt
  unfold satInc
  split
  · rename_i h; subst h; simp
  · rename_i h
    have hne : x.toNat ≠ 2 ^ w - 1 := fun e => h (BitVec.eq_of_toNat_eq (by simpa using e))
    have h1 : (1 : BitVec w).toNat = 1 % 2 ^ w := BitVec.toNat_ofNat ..
    have : 1 % 2 ^ w = 1 := Nat.mod_eq_of_lt (by omega)
    rw [BitVec.toNat_add, h1, this, Nat.mod_eq_of_lt (by omega)]
    omega

theorem le_satInc {w : Nat} (x : BitVec w) : x.toNat ≤ (satInc x).toNat := by
  have := x.isLt
  rw [satInc_toNat]; omega

theorem lt_satInc {w : Nat} {x : BitVec w} (h : x ≠ BitVec.allOnes w) : x.toNat < (satInc x).toNat := by
  have hx := x.isLt
  have hne : x.toNat ≠ 2 ^ w - 1 := fun e => h (BitVec.eq_of_toNat_eq (by simpa using e))
  rw [satInc_toNat]; omega

/-! ### Ageing -/

theorem Entry.aged_live {e : Entry} (h : e.state = .live) : e.aged = { e with age := satInc e.age } := by
  simp [Entry.aged, h]

theorem Entry.aged_state (e : Entry) : e.aged.state = e.state := by unfold Entry.aged; split <;> rfl

/-- R14: the due slots of a tick are those that the increased ages make due. -/
theorem due_mapEntries_aged {s : State} {n : Fin 64} : Due (mapEntries Entry.aged s) n ↔ DueAtNextTick s n := by
  have key : ∀ t : State, t.rsp = s.rsp → t.ott.timeout = s.ott.timeout → entry t n = (entry s n).aged →
      (Due t n ↔ DueAtNextTick s n) := by
    intro t h1 h2 h3
    simp only [Due, DueAtNextTick, h1, h2, h3, Entry.aged_state]
    constructor
    · rintro ⟨h1, h2, h3, h4⟩
      rw [Entry.aged_live h1] at h4
      exact ⟨h1, h2, h3, h4⟩
    · rintro ⟨h1, h2, h3, h4⟩
      refine ⟨h1, h2, h3, ?_⟩
      rw [Entry.aged_live h1]; exact h4
  exact key _ (mapEntries_frame ..).2.2.2.1 (mapEntries_timeout ..) (entry_mapEntries ..)

theorem expireReport_none {s : State} {n : Fin 64} (h : ¬ Due s n) : expireReport n s = s := by
  have : due s n = false := by rw [← due_iff] at h; simpa using h
  simp [expireReport, this]

/-- R12: a tick at which nothing is due ages the LIVE slots. -/
theorem ottTick_none {s : State} (h : ∀ n, ¬ DueAtNextTick s n) : ottTick s = mapEntries Entry.aged s := by
  have hd : ∀ n, ¬ Due (mapEntries Entry.aged s) n := fun n x => h n (due_mapEntries_aged.1 x)
  unfold ottTick
  dsimp only
  split
  · exact foldl_same (f := fun t n => expireReport n t) (fun n => expireReport_none (hd n)) slotNumbers
  · exact makeClaims_none (.inr hd)

/-! ### Expiry under REPORT -/

theorem recordAnomaly_counts (a : Anomaly) (s : State) (k : Fin 6) :
    s.ans.counts[k].toNat ≤ (recordAnomaly a s).ans.counts[k].toNat := by
  simp only [recordAnomaly, State.setAns_ans, Fin.getElem_fin, Vector.getElem_set]
  split
  · rename_i h; simp only [h]; exact le_satInc _
  · exact Nat.le_refl _

theorem takeAnomaly_counts (a : Anomaly) (s : State) (k : Fin 6) :
    s.ans.counts[k].toNat ≤ (takeAnomaly a s).ans.counts[k].toNat := by
  rw [takeAnomaly_ans]; exact recordAnomaly_counts a s k

theorem expireReport_grows (n : Fin 64) (s : State) :
    (s.ans.flags.getLsbD 5 = true → (expireReport n s).ans.flags.getLsbD 5 = true)
    ∧ s.ans.counts[(5 : Fin 6)].toNat ≤ (expireReport n s).ans.counts[(5 : Fin 6)].toNat := by
  unfold expireReport
  split
  · exact ⟨fun h => takeAnomaly_flag _ _ 5 (by simpa using h), takeAnomaly_counts _ (setEntry n _ s) 5⟩
  · exact ⟨fun h => h, Nat.le_refl _⟩

theorem expireReport_timeout (n : Fin 64) (s : State) :
    (expireReport n s).ott.timeout = s.ott.timeout ∧ (expireReport n s).ott.policy = s.ott.policy
    ∧ (expireReport n s).ott.purgeCount = s.ott.purgeCount := by
  unfold expireReport
  split <;> simp

/-- R15: over the slots of a tick under REPORT, a due slot with expired clear is marked and counted. -/
theorem expireAll_marks {s : State} {n : Fin 64} (hd : Due s n) (he : (entry s n).expired = false) :
    entry (slotNumbers.foldl (fun t m => expireReport m t) s) n = { entry s n with expired := true }
    ∧ (slotNumbers.foldl (fun t m => expireReport m t) s).ans.flags.getLsbD 5 = true
    ∧ (s.ans.counts[(5 : Fin 6)] ≠ 255 → s.ans.counts[(5 : Fin 6)].toNat
        < (slotNumbers.foldl (fun t m => expireReport m t) s).ans.counts[(5 : Fin 6)].toNat) := by
  obtain ⟨before, after, hs, hb⟩ := slotNumbers_split n
  rw [hs, List.foldl_append, List.foldl_cons]
  have h1 : entry (before.foldl (fun t m => expireReport m t) s) n = entry s n
      ∧ (before.foldl (fun t m => expireReport m t) s).rsp = s.rsp
      ∧ (before.foldl (fun t m => expireReport m t) s).ott.timeout = s.ott.timeout
      ∧ s.ans.counts[(5 : Fin 6)].toNat
          ≤ (before.foldl (fun t m => expireReport m t) s).ans.counts[(5 : Fin 6)].toNat := by
    have : ∀ (l : List (Fin 64)) (t : State), (∀ m ∈ l, m < n) →
        (entry t n = entry s n ∧ t.rsp = s.rsp ∧ t.ott.timeout = s.ott.timeout
          ∧ s.ans.counts[(5 : Fin 6)].toNat ≤ t.ans.counts[(5 : Fin 6)].toNat) →
        (entry (l.foldl (fun t m => expireReport m t) t) n = entry s n
          ∧ (l.foldl (fun t m => expireReport m t) t).rsp = s.rsp
          ∧ (l.foldl (fun t m => expireReport m t) t).ott.timeout = s.ott.timeout
          ∧ s.ans.counts[(5 : Fin 6)].toNat
              ≤ (l.foldl (fun t m => expireReport m t) t).ans.counts[(5 : Fin 6)].toNat) := by
      intro l
      induction l with
      | nil => intro t _ h; exact h
      | cons a l ih =>
        rintro t hl ⟨g1, g2, g3, g4⟩
        rw [List.foldl_cons]
        have hne : n ≠ a := fun x => by have := hl a (by simp); rw [x] at this; exact Nat.lt_irrefl _ this
        refine ih _ (fun m hm => hl m (by simp [hm])) ⟨?_, ?_, ?_, Nat.le_trans g4 (expireReport_grows a t).2⟩
        · rw [expireReport_entry, if_neg (fun x => hne x.1), g1]
        · simp [g2]
        · rw [(expireReport_timeout a t).1, g3]
    exact this before s hb ⟨rfl, rfl, rfl, Nat.le_refl _⟩
  generalize before.foldl (fun t m => expireReport m t) s = t at h1
  obtain ⟨g1, g2, g3, g4⟩ := h1
  have hdt : due t n = true := by
    rw [due_iff]
    simp only [Due, g1, g2, g3]
    exact hd
  have hx : expireReport n t = takeAnomaly (entryAnomaly .timeout n (entry t n))
      (setEntry n { entry t n with expired := true } t) := by
    simp [expireReport, hdt, g1, he]
  have hstart : entry (expireReport n t) n = { entry s n with expired := true }
      ∧ (expireReport n t).ans.flags.getLsbD 5 = true
      ∧ (s.ans.counts[(5 : Fin 6)] ≠ 255 → s.ans.counts[(5 : Fin 6)].toNat
          < (expireReport n t).ans.counts[(5 : Fin 6)].toNat) := by
    refine ⟨by rw [expireReport_entry, if_pos ⟨rfl, hdt⟩, g1], ?_, fun h => ?_⟩
    · have hb : AnomalyClass.timeout.bit.getLsbD 5 = true := by decide
      rw [hx, takeAnomaly_ans]
      simp only [recordAnomaly, entryAnomaly, State.setAns_ans, BitVec.getLsbD_or, hb, Bool.or_true]
    · rw [hx, takeAnomaly_ans]
      have : (recordAnomaly (entryAnomaly .timeout n (entry t n))
          (setEntry n { entry t n with expired := true } t)).ans.counts[(5 : Fin 6)]
          = satInc t.ans.counts[(5 : Fin 6)] := by
        simp [recordAnomaly, entryAnomaly, AnomalyClass.code]
      rw [this]
      by_cases h2 : t.ans.counts[(5 : Fin 6)] = 255
      · have h3 := s.ans.counts[(5 : Fin 6)].isLt
        have h4 : s.ans.counts[(5 : Fin 6)].toNat ≠ 255 := fun x => h (BitVec.eq_of_toNat_eq (by simpa using x))
        rw [h2]
        have h5 : (satInc (255 : Byte)).toNat = 255 := by decide
        omega
      · exact Nat.lt_of_le_of_lt g4 (lt_satInc h2)
  refine foldl_kept (fun t m => expireReport m t) (fun u => entry u n = { entry s n with expired := true }
      ∧ u.ans.flags.getLsbD 5 = true
      ∧ (s.ans.counts[(5 : Fin 6)] ≠ 255 → s.ans.counts[(5 : Fin 6)].toNat < u.ans.counts[(5 : Fin 6)].toNat))
    ?_ after _ hstart
  rintro u m ⟨k1, k2, k3⟩
  refine ⟨?_, (expireReport_grows m u).1 k2, fun h => Nat.lt_of_lt_of_le (k3 h) (expireReport_grows m u).2⟩
  rw [expireReport_entry]
  split
  · rename_i h; rw [← h.1, k1]
  · exact k1

/-- R15: with one due slot that is not yet marked the pass under REPORT is that slot's expiry. -/
theorem expireAll_only {s : State} {n : Fin 64} (ho : ∀ m, m ≠ n → Due s m → (entry s m).expired = true) :
    slotNumbers.foldl (fun t m => expireReport m t) s = expireReport n s := by
  have h1 : ∀ m, m ≠ n → ∀ t, (∀ m, m ≠ n → Due t m → (entry t m).expired = true) → expireReport m t = t := by
    intro m hm t ht
    by_cases hd : Due t m
    · simp [expireReport, ht m hm hd]
    · exact expireReport_none hd
  refine foldl_once (f := fun t m => expireReport m t) (fun m hm => h1 m hm s ho) (fun m hm => h1 m hm _ ?_)
  intro k hk hd
  have he : entry (expireReport n s) k = entry s k := by rw [expireReport_entry, if_neg (fun x => hk x.1)]
  rw [he]
  refine ho k hk ?_
  simpa only [Due, he, (expireReport_timeout n s).1, (expireReport_frame n s)] using hd

/-! ### What a tick of OTT leaves in the other blocks -/

theorem timeoutRecord_held (n : Fin 64) (s : State) : (timeoutRecord n s).rqp.held = s.rqp.held
    ∧ (timeoutRecord n s).rqp.holdAge = s.rqp.holdAge ∧ (timeoutRecord n s).rqp.holdLimit = s.rqp.holdLimit := by
  unfold timeoutRecord
  dsimp only
  split <;> simp [settleRoom_held]

theorem abandon_held (n : Fin 64) (s : State) : (abandon n s).rqp.held = s.rqp.held
    ∧ (abandon n s).rqp.holdAge = s.rqp.holdAge ∧ (abandon n s).rqp.holdLimit = s.rqp.holdLimit := by
  unfold abandon
  dsimp only
  (repeat' split) <;> simp [timeoutRecord_held]

/-- The latch AN apart, two states of TSQ are the same. -/
def SameButAn (x y : Tsq) : Prop := { x with an := false } = { y with an := false }

theorem SameButAn.fields {x y : Tsq} (h : SameButAn x y) : x.stages = y.stages ∧ x.state = y.state ∧ x.stage = y.stage
    ∧ x.counter0 = y.counter0 ∧ x.counter1 = y.counter1 ∧ x.dwellAge = y.dwellAge ∧ x.rqpReport = y.rqpReport
    ∧ x.rspReport = y.rspReport ∧ x.xt = y.xt ∧ x.dwellExpiry = y.dwellExpiry ∧ x.command = y.command
    ∧ x.pointer = y.pointer := by
  cases x; cases y
  simp only [SameButAn, Tsq.mk.injEq] at h
  simp [h]

/-- An expiry writes nothing in TSQ but the AN latch. -/
theorem takeAnomaly_tsq_an (a : Anomaly) (s : State) : SameButAn (takeAnomaly a s).tsq s.tsq := by
  rw [takeAnomaly_tsq]; exact rfl

theorem timeoutAnomaly_tsq_an (n : Fin 64) (e : Entry) (s : State) :
    SameButAn (timeoutAnomaly n e s).tsq s.tsq := by
  unfold timeoutAnomaly
  split
  · exact rfl
  · exact takeAnomaly_tsq_an _ _

theorem abandon_tsq_an (n : Fin 64) (s : State) : SameButAn (abandon n s).tsq s.tsq := by
  have h := fun t => timeoutAnomaly_tsq_an n (entry s n) t
  unfold abandon
  dsimp only
  (repeat' split)
  · rw [(timeoutRecord_frame ..).2.1]; exact (h _).trans (by simp)
  · exact (h _).trans (by rw [(timeoutRecord_frame ..).2.1]; simp)
  · rw [(timeoutRecord_frame ..).2.1]; exact (h _).trans (by simp)

theorem makeClaims_others (s : State) : (makeClaims s).rqp.held = s.rqp.held
    ∧ (makeClaims s).rqp.holdAge = s.rqp.holdAge ∧ (makeClaims s).rqp.holdLimit = s.rqp.holdLimit
    ∧ (makeClaims s).rqp.inProcess.isSome = s.rqp.inProcess.isSome
    ∧ SameButAn (makeClaims s).tsq s.tsq := by
  refine makeClaims_kept (P := fun t => t.rqp.held = s.rqp.held ∧ t.rqp.holdAge = s.rqp.holdAge
    ∧ t.rqp.holdLimit = s.rqp.holdLimit ∧ t.rqp.inProcess.isSome = s.rqp.inProcess.isSome
    ∧ SameButAn t.tsq s.tsq) ?_ ⟨rfl, rfl, rfl, rfl, rfl⟩
  rintro t n ⟨h1, h2, h3, h4, h5⟩ _ _ _
  have ha := abandon_held n t
  exact ⟨ha.1.trans h1, ha.2.1.trans h2, ha.2.2.trans h3, (abandon_isSome n t).trans h4,
    (abandon_tsq_an n t).trans h5⟩

/-- The claims at a report write nothing in TSQ but the AN latch. -/
theorem claimAtReport_tsq_an (s : State) : SameButAn (claimAtReport s).tsq s.tsq :=
  claimAtReport_kept (P := fun t => SameButAn t.tsq s.tsq) (fun t n h _ _ _ => (abandon_tsq_an n t).trans h) rfl rfl

theorem expireReport_tsq_an (n : Fin 64) (s : State) : SameButAn (expireReport n s).tsq s.tsq := by
  unfold expireReport
  split
  · exact (takeAnomaly_tsq_an _ _).trans (by simp)
  · exact rfl

/-- OTT's tick leaves the hold alone and writes nothing in TSQ but the AN latch. -/
theorem ottTick_others (s : State) : (ottTick s).rqp.held = s.rqp.held
    ∧ (ottTick s).rqp.holdAge = s.rqp.holdAge ∧ (ottTick s).rqp.holdLimit = s.rqp.holdLimit
    ∧ (ottTick s).rqp.inProcess.isSome = s.rqp.inProcess.isSome
    ∧ SameButAn (ottTick s).tsq s.tsq := by
  unfold ottTick
  dsimp only
  split
  · refine foldl_kept (fun t n => expireReport n t) (fun t => t.rqp.held = s.rqp.held
      ∧ t.rqp.holdAge = s.rqp.holdAge ∧ t.rqp.holdLimit = s.rqp.holdLimit
      ∧ t.rqp.inProcess.isSome = s.rqp.inProcess.isSome ∧ SameButAn t.tsq s.tsq)
      ?_ slotNumbers _ ⟨by simp, by simp, by simp, by simp, by simp [SameButAn]⟩
    rintro t n ⟨h1, h2, h3, h4, h5⟩
    exact ⟨by simpa using h1, by simpa using h2, by simpa using h3, by simpa using h4,
      (expireReport_tsq_an n t).trans h5⟩
  · have := makeClaims_others (mapEntries Entry.aged s)
    simpa using this

/-- The prescale count has no part in what a tick does. -/
theorem tickEvent_prescale (s : State) (p : Half) :
    tickEvent (s.setTbs { s.tbs with prescale := p }) = tickEvent s := rfl

end Sys2Proof.Machine
end

