-- ==== Sys2Proof/Laws/Port.lean ====
section
/-! SUPPORT. The management port: a byte is its eight edges, a command row is its frame, and what the frames of the
register window do (R182 to R194). -/
namespace Sys2Proof.Machine

/-! ### Bits and bytes -/

theorem shiftIn_byte (x b : Byte) :
    shiftIn (shiftIn (shiftIn (shiftIn (shiftIn (shiftIn (shiftIn (shiftIn x (b.getLsbD 7)) (b.getLsbD 6))
      (b.getLsbD 5)) (b.getLsbD 4)) (b.getLsbD 3)) (b.getLsbD 2)) (b.getLsbD 1)) (b.getLsbD 0) = b := by
  apply BitVec.eq_of_getLsbD_eq
  intro i hi
  have h : i = 0 ∨ i = 1 ∨ i = 2 ∨ i = 3 ∨ i = 4 ∨ i = 5 ∨ i = 6 ∨ i = 7 := by omega
  rcases h with h | h | h | h | h | h | h | h <;> subst h <;> simp [shiftIn, flag]

/-- The bits of the current byte have no part in what its completion does. -/
theorem byteComplete_bits (b : Byte) (s : State) (p : BitVec 3) (x : Byte) :
    byteComplete b (s.setMgp { s.mgp with bitPos := p, shift := x }) = byteComplete b s := by
  unfold byteComplete
  simp only [State.setMgp_mgp]
  rfl

theorem edge_inByte {bit : Bool} {rest : List Instr} {s : State} (hp : Powered s) (hf : s.mgp.frameState ≠ .idle)
    (h7 : s.mgp.bitPos ≠ 7) : execAll (.sclkRisingEdge bit :: rest) s
      = execAll rest (s.setMgp { s.mgp with bitPos := s.mgp.bitPos + 1, shift := shiftIn s.mgp.shift bit }) := by
  simp only [execAll, exec, execSclkRisingEdge, whenPowered_up hp, sclkEdge, if_neg hf, if_neg h7]

theorem edge_lastInByte {bit : Bool} {rest : List Instr} {s : State} (hp : Powered s) (hf : s.mgp.frameState ≠ .idle)
    (h7 : s.mgp.bitPos = 7) : execAll (.sclkRisingEdge bit :: rest) s
      = execAll rest (byteComplete (shiftIn s.mgp.shift bit) s) := by
  simp only [execAll, exec, execSclkRisingEdge, whenPowered_up hp, sclkEdge, if_neg hf, if_pos h7]

/-- R182: eight edges complete one byte. -/
theorem execAll_byteEdges {b : Byte} {rest : List Instr} {s : State} (hp : Powered s)
    (hf : s.mgp.frameState ≠ .idle) (h0 : s.mgp.bitPos = 0) :
    execAll (byteEdges b ++ rest) s = execAll rest (byteComplete b s) := by
  have key : ∀ (p : BitVec 3) (x : Byte) (bit : Bool) (rest : List Instr), p ≠ 7 →
      execAll (.sclkRisingEdge bit :: rest) (s.setMgp { s.mgp with bitPos := p, shift := x })
        = execAll rest (s.setMgp { s.mgp with bitPos := p + 1, shift := shiftIn x bit }) :=
    fun p x bit rest h => edge_inByte (s := s.setMgp { s.mgp with bitPos := p, shift := x }) hp hf h
  have last : ∀ (p : BitVec 3) (x : Byte) (bit : Bool), p = 7 →
      execAll (.sclkRisingEdge bit :: rest) (s.setMgp { s.mgp with bitPos := p, shift := x })
        = execAll rest (byteComplete (shiftIn x bit) s) := fun p x bit h =>
    (edge_lastInByte (s := s.setMgp { s.mgp with bitPos := p, shift := x }) hp hf h).trans
      (by rw [byteComplete_bits]; rfl)
  have h1 : s = s.setMgp { s.mgp with bitPos := 0, shift := s.mgp.shift } := by rw [← h0]; rfl
  simp only [byteEdges, List.cons_append, List.nil_append]
  conv => lhs; rw [h1]
  rw [key 0 _ _ _ (by decide), key _ _ _ _ (by decide), key _ _ _ _ (by decide), key _ _ _ _ (by decide),
    key _ _ _ _ (by decide), key _ _ _ _ (by decide), key _ _ _ _ (by decide), last _ _ _ (by decide), shiftIn_byte]

/-! ### Frames sent whole -/

theorem canSend_between {f : List Byte} {s : State} (h : BetweenFrames s) : canSend f s = true := by
  simp [canSend, h.2.1, h.2.2]

/-- R183: a command taken at its frame's end, sent whole between frames. -/
theorem endFrame_between {f : List Byte} {take : State → Status × State} {s : State} (h : BetweenFrames s) :
    endFrame f take s = closeFrame (take s).1 (take s).2 := by
  simp [endFrame, canSend_between h]

theorem actionFrame_between {c : Command} {effect : State → State} {s : State} (h : BetweenFrames s) :
    actionFrame c effect s = closeFrame .ok (effect s) := by
  simp [actionFrame, endFrame_between h]

/-- R184: a read-type command sent between frames: its header is received and it is taken. -/
theorem sendHeader_between {f : List Byte} {take : State → State} {s : State} (h : BetweenFrames s) :
    sendHeader f take s = take ((s.setPins { s.pins with cs := true }).setMgp
      { s.mgp with frameState := .header, received := f, bytePos := BitVec.ofNat 16 f.length, bitPos := 0,
                   shift := 0 }) := by
  rw [sendHeader, if_pos ⟨canSend_between h, .inl h.2.2⟩]

/-- Between frames CS_N is deasserted already: closing a frame writes MGP alone. -/
theorem closeFrame_between {st : Status} {s t : State} (h : BetweenFrames s) (hp : t.pins = s.pins) :
    closeFrame st t = t.setMgp (Mgp.idle st) := by
  have : ({ t.pins with cs := false } : Pins) = t.pins := by
    rw [hp]; cases hq : s.pins; have := h.2.1; rw [hq] at this; simp_all
  simp [closeFrame, this, State.setPins]

theorem powered_of_between {s : State} (h : BetweenFrames s) : Powered s := h.1

/-! ### WRITE_REG -/

/-- R188: what the written words leave alone. -/
@[simp] theorem writeWords_frame (s : State) (l : List (Option WinWord × Word)) :
    (writeWords s l).rsp = s.rsp ∧ (writeWords s l).rmg = s.rmg ∧ (writeWords s l).pulse = s.pulse
    ∧ (writeWords s l).mgp = s.mgp ∧ (writeWords s l).pins = s.pins ∧ (writeWords s l).choices = s.choices
    ∧ (writeWords s l).pending = s.pending := by
  induction l generalizing s with
  | nil => simp [writeWords]
  | cons p l ih => rcases p with ⟨_ | x, w⟩ <;> simp [writeWords, ih]

/-- R188: a frame that no check refuses writes its words, in order, within one event. -/
theorem writeFrame_ok {index : Half} {count : Byte} {words : List Word} {s : State} (hb : BetweenFrames s)
    (hpl : payloadComplete count words = true) (hin : rangeInWindow index count = true)
    (hl : rangeHas locked index count = false ∨ s.tsq.state ≠ .armed)
    (hr : rangeHas readOnly index count = false) :
    writeFrame index count words s
      = (writeWords s ((rangeWords index count).zip (words.take count.toNat))).setMgp (Mgp.idle .ok) := by
  have h1 : writeRegStatus index count s = .ok := by
    rcases hl with hl | hl <;> simp [writeRegStatus, hin, hl, hr]
  simp only [writeFrame, endFrame_between hb, takeWriteReg, hpl, h1, if_true]
  rw [closeFrame_between hb (by simp)]

/-- R185, R188: a frame whose payload arrived and that a check refuses writes nothing. -/
theorem writeFrame_refused {index : Half} {count : Byte} {words : List Word} {s : State} (hb : BetweenFrames s)
    (hpl : payloadComplete count words = true) (h : writeRegStatus index count s ≠ .ok) :
    writeFrame index count words s = s.setMgp (Mgp.idle (writeRegStatus index count s)) := by
  simp only [writeFrame, endFrame_between hb, takeWriteReg, hpl, if_neg h, if_true]
  rw [closeFrame_between hb rfl]

/-- R185: a frame cut short is not taken. -/
theorem writeFrame_short {index : Half} {count : Byte} {words : List Word} {s : State} (hb : BetweenFrames s)
    (hpl : payloadComplete count words = false) :
    writeFrame index count words s = s.setMgp (Mgp.idle .aborted) := by
  simp only [writeFrame, endFrame_between hb, takeWriteReg, hpl]
  exact closeFrame_between hb rfl

/-- R97: the capture in hand is gone; the hold stays. -/
theorem cancelCapture_spec (s : State) : (cancelCapture s).tcu = { s.tcu with capture := none }
    ∧ (cancelCapture s).rqp.held = s.rqp.held ∧ (cancelCapture s).rqp.holdAge = s.rqp.holdAge
    ∧ (cancelCapture s).rqp.holdLimit = s.rqp.holdLimit
    ∧ (cancelCapture s).rqp.inProcess.isSome = s.rqp.inProcess.isSome := by
  unfold cancelCapture beginOffer
  dsimp only
  (repeat' split) <;> simp_all [setCapture, setTxn]

/-- R97: a request that does not wait for room keeps its place. -/
theorem cancelCapture_same {s : State} (h : ∀ t, s.rqp.inProcess = some t → t.phase ≠ .roomWait) :
    cancelCapture s = setCapture none s := by
  unfold cancelCapture
  dsimp only
  split
  · rename_i t ht; rw [if_neg (h t (by simpa using ht))]
  · rfl

/-- R97: a request in ROOM_WAIT with the hold not in effect begins its offer. -/
theorem cancelCapture_begins {s : State} {t : RqpTxn} {n : Fin 64} (h : s.rqp.inProcess = some t)
    (hp : t.phase = .roomWait) (hh : s.rqp.held = false) (hn : LowestFree s n) :
    cancelCapture s = setTxn (some { t with phase := .offered n }) (setCapture none s) := by
  have hl : LowestFree (setCapture none s) n := by simpa [LowestFree] using hn
  simp only [cancelCapture, setCapture_frame, h, hp, hh, if_true, Bool.false_eq_true, if_false]
  exact beginOffer_lowest hl t

theorem writeMode_entry (m : BitVec 3) (s : State) (n : Fin 64) : entry (writeMode m s) n = (entry s n).untraced := by
  simp [writeMode]

end Sys2Proof.Machine
end

