-- ==== Sys2Proof/Laws/Edges.lean ====
section
/-! SUPPORT. A frame sent edge by edge: the frame in progress, and the operations that do not look at the port. -/
namespace Sys2Proof.Machine

/-- R182: a frame that has just begun. -/
def begun (s : State) : State :=
  (s.setPins { s.pins with cs := true }).setMgp { Mgp.idle s.mgp.lastStatus with frameState := .command }

theorem frameBegin_between {s : State} (h : BetweenFrames s) (rest : List Instr) :
    execAll (.frameBegin :: rest) s = execAll rest (begun s) := by
  have : beginFrame s = begun s := by rw [beginFrame, if_pos ⟨h.2.2, h.2.1⟩]; rfl
  simp only [execAll, exec, execFrameBegin, h.1, this]
  rfl

theorem byteEdges_nil {b : Byte} {s : State} (hp : Powered s) (hf : s.mgp.frameState ≠ .idle) (h0 : s.mgp.bitPos = 0) :
    execAll (byteEdges b) s = .next (byteComplete b s) := by
  have := execAll_byteEdges (b := b) (rest := []) hp hf h0
  rw [List.append_nil] at this
  exact this

/-- A frame in progress: `rec` received, `n` bytes so far, on a byte boundary. -/
def inFrame (st : FrameState) (rec : List Byte) (n : Half) (s : State) : State :=
  (s.setPins { s.pins with cs := true }).setMgp
    { Mgp.idle s.mgp.lastStatus with frameState := st, received := rec, bytePos := n }

theorem edges_inFrame {st : FrameState} {rec : List Byte} {n : Half} {s : State} (hp : Powered s) (hst : st ≠ .idle) (b : Byte) (rest : List Instr) :
    execAll (byteEdges b ++ rest) (inFrame st rec n s) = execAll rest (byteComplete b (inFrame st rec n s)) :=
  execAll_byteEdges (s := inFrame st rec n s) hp hst rfl

theorem edges_inFrame_nil {st : FrameState} {rec : List Byte} {n : Half} {s : State} (hp : Powered s) (hst : st ≠ .idle) (b : Byte) :
    execAll (byteEdges b) (inFrame st rec n s) = .next (byteComplete b (inFrame st rec n s)) :=
  byteEdges_nil (s := inFrame st rec n s) hp hst rfl

theorem begun_eq (s : State) : begun s = inFrame .command [] 0 s := rfl

theorem halfOf_bytes (h : Half) : halfOf (h.extractLsb' 8 8) (h.extractLsb' 0 8) = h := by
  apply BitVec.eq_of_getLsbD_eq
  intro i hi
  simp only [halfOf, BitVec.getLsbD_append, BitVec.getLsbD_extractLsb']
  by_cases h8 : i < 8
  · simp [h8]
  · simp [h8, show i - 8 < 8 by omega, show 8 + (i - 8) = i by omega]

/-- The same part with another port state: what the blocks do does not look at it. -/
def withPort (m : Mgp) (p : Pins) (s : State) : State := (s.setPins p).setMgp m
section
variable (m : Mgp) (p : Pins) (s : State)

theorem lowestFree_port : lowestFree (withPort m p s) = lowestFree s := rfl

theorem modeOf_port : modeOf (withPort m p s) = modeOf s := rfl

theorem freeSlots_port : freeSlots (withPort m p s) = freeSlots s := rfl

theorem beginOffer_port (t : RqpTxn) : beginOffer t (withPort m p s) = withPort m p (beginOffer t s) := by
  unfold beginOffer; rw [lowestFree_port]; cases lowestFree s <;> rfl

theorem grantClaim_port : grantClaim (withPort m p s) = withPort m p (grantClaim s) := by
  unfold grantClaim; rw [freeSlots_port]
  show (match s.tcu.capture with | some c => _ | none => _) = _
  cases s.tcu.capture with
  | none => rfl
  | some c => dsimp only; split <;> rfl

theorem settleRoom_port : settleRoom (withPort m p s) = withPort m p (settleRoom s) := by
  unfold settleRoom
  show (match s.rqp.inProcess with | some t => _ | none => _) = _
  cases s.rqp.inProcess with
  | none => rfl
  | some t =>
    dsimp only
    split
    · rw [grantClaim_port, beginOffer_port]
      show (if (claimSatisfied (grantClaim s) && !(grantClaim s).rqp.held) = true then _ else _) = _
      split <;> rfl
    · rfl

theorem release_port : release (withPort m p s) = withPort m p (release s) := settleRoom_port m p (releaseFlag s)

/-- A function of both arms is a function of the choice. -/
theorem ite_eq' {α : Type} {c c' : Prop} {_ : Decidable c} {_ : Decidable c'} (hc : c = c') {f : α → α} {a b a' b' : α}
    (ha : a = f a') (hb : b = f b') : (if c then a else b) = f (if c' then a' else b') := by
  subst hc; subst ha; subst hb; by_cases h : c
  · rw [if_pos h, if_pos h]
  · rw [if_neg h, if_neg h]

/-- The outcome of a group with another port state. -/
def portG (m : Mgp) (p : Pins) (x : GroupOutcome × State) : GroupOutcome × State := (x.1, withPort m p x.2)

theorem cancelCapture_port : cancelCapture (withPort m p s) = withPort m p (cancelCapture s) := by
  unfold cancelCapture
  dsimp only
  show (match s.rqp.inProcess with | some t => _ | none => _) = _
  cases h : s.rqp.inProcess with
  | none => simp [setCapture, h]; rfl
  | some t =>
    have : (setCapture none s).rqp.inProcess = some t := h
    rw [this]
    dsimp only
    exact ite_eq' rfl (ite_eq' rfl rfl (beginOffer_port m p (setCapture none s) t)) rfl

theorem appendGroup_port (g : List Record) (b : Nat) : appendGroup g b (withPort m p s) = withPort m p (appendGroup g
    b s) := by
  unfold appendGroup raiseIf
  exact ite_eq' rfl rfl rfl

theorem ringTake_port (g : List Record) : ringTake g (withPort m p s) = portG m p (ringTake g s) := by
  unfold ringTake
  refine ite_eq' rfl ?_ (ite_eq' rfl rfl (ite_eq' rfl ?_ rfl))
  · rw [appendGroup_port]; rfl
  · exact congrArg _ (appendGroup_port m p (s.setTst _) _ _)

theorem stopTake_port (g : List Record) : stopTake g (withPort m p s) = portG m p (stopTake g s) := by
  unfold stopTake
  rw [appendGroup_port]
  exact ite_eq' rfl rfl rfl

theorem dropTake_port (g : List Record) : dropTake g (withPort m p s) = portG m p (dropTake g s) := by
  unfold dropTake
  rw [appendGroup_port]
  exact ite_eq' rfl rfl rfl

theorem stallTake_port (g : List Record) (n : Nat) (b : Backing) : stallTake g n b (withPort m p s) = portG m p
    (stallTake g n b s) := by
  unfold stallTake
  cases b with
  | unbacked =>
    dsimp only
    rw [appendGroup_port]
    exact ite_eq' rfl rfl rfl
  | claim r =>
    dsimp only
    rw [appendGroup_port]
    exact ite_eq' rfl rfl rfl
  | reservation k =>
    dsimp only
    rw [show ∀ e, setEntry k e (withPort m p s) = withPort m p (setEntry k e s) from fun _ => rfl, appendGroup_port]
    exact ite_eq' rfl rfl rfl

theorem storeTake_port (g : List Record) (n : Nat) (b : Backing) : storeTake g n b (withPort m p s) = portG m p
    (storeTake g n b s) := by
  unfold storeTake
  rw [modeOf_port, ringTake_port, stopTake_port, dropTake_port, stallTake_port]
  cases modeOf s <;> rfl

theorem offerRecord_port (r : Record) (b : Backing) (ref : Option (Addr × Byte)) :
    offerRecord r b ref (withPort m p s) = ((offerRecord r b ref s).1, withPort m p (offerRecord r b ref s).2) := by
  unfold offerRecord
  rw [modeOf_port, show composeGroup r (withPort m p s) = composeGroup r s from rfl, storeTake_port]
  split
  · rfl
  · dsimp only [portG]
    cases (storeTake (composeGroup r s) r.length b s).1 <;> rfl

theorem offerEvent_port (r : Record) : offerEvent r (withPort m p s) = withPort m p (offerEvent r s) := by
  unfold offerEvent; rw [offerRecord_port]

theorem answerResponse_port (f : Bool) : answerResponse f (withPort m p s) = withPort m p (answerResponse f s) := by
  unfold answerResponse
  show (match s.rsp.inProcess with | some t => _ | none => _) = _
  cases s.rsp.inProcess with
  | none => rfl
  | some t =>
    dsimp only
    rw [show entry (withPort m p s) t.slot = entry s t.slot from rfl]
    split
    · rw [offerRecord_port]; rfl
    · rfl

theorem forwardRequest_port : forwardRequest (withPort m p s) = withPort m p (forwardRequest s) := by
  unfold forwardRequest
  show (match s.rqp.inProcess with | some t => _ | none => _) = _
  cases s.rqp.inProcess with
  | none => rfl
  | some t => dsimp only; split <;> rfl

theorem forwardResponse_port : forwardResponse (withPort m p s) = withPort m p (forwardResponse s) := by
  unfold forwardResponse
  rw [answerResponse_port]
  show (match s.rsp.inProcess with | some t => _ | none => _) = _
  cases s.rsp.inProcess with
  | none => rfl
  | some t => dsimp only; split <;> rfl

theorem clearWatch_port : clearWatch (withPort m p s) = withPort m p (clearWatch s) := by
  unfold clearWatch
  dsimp only
  rw [show ∀ (a : Tsq) (b : Tcu) (c : Tst), releaseFlag (((clearMatches (mapEntries Entry.untraced (withPort m p
      s))).setTsq a |>.setTcu b).setTst c)
    = withPort m p (releaseFlag (((clearMatches (mapEntries Entry.untraced s)).setTsq a |>.setTcu b).setTst c)) from
        fun _ _ _ => rfl]
  rw [cancelCapture_port, forwardRequest_port, forwardResponse_port]
  rfl

end

theorem begun_port (s : State) (rec : List Byte) (st : FrameState) (n : Half) : inFrame st rec n s =
  withPort { Mgp.idle s.mgp.lastStatus with frameState := st, received := rec, bytePos := n } { s.pins with cs := true } s := rfl

/-- R183: a command whose frame has arrived edge by edge is taken as one sent whole. -/
theorem endFrame_in {st : FrameState} {f : List Byte} {n : Half} {take : State → Status × State} {s : State} (hb : BetweenFrames s) (hst : st ≠ .idle)
    (hc : ∀ m p, take (withPort m p s) = ((take s).1, withPort m p (take s).2)) (hpi : (take s).2.pins = s.pins) :
    endFrame f take (inFrame st f n s) = endFrame f take s := by
  rw [endFrame_between hb]
  have : canSend f (inFrame st f n s) = true := by
    unfold canSend
    rw [if_neg (show (inFrame st f n s).mgp.frameState ≠ .idle from hst)]
    simp [agrees, inFrame]
  unfold endFrame
  rw [if_pos this, begun_port, hc]
  simp only [closeFrame]
  have : ∀ (t : State) m, ({ (withPort m { s.pins with cs := true } t).pins with cs := false } : Pins) = { s.pins with cs := false } := fun t m => rfl
  rw [this, hpi]
  rfl

/-- A command without header and payload is complete with its code. -/
theorem drainAt (c : Byte) (hc : ∃ k, Command.ofCode c = some k ∧ k.headerBytes = 0
    ∧ k.payloadBytes [c] = 0) (s : State) :
    byteComplete c (inFrame .command [] 0 s) = inFrame .drain [c] 1 s := by
  obtain ⟨k, h1, h2, h3⟩ := hc
  show commandComplete c _ = _
  unfold commandComplete
  rw [h1]
  dsimp only
  rw [h2, h3]
  rfl

/-- R193: an action command sent edge by edge is its row. -/
theorem actRow {c : Command} {i : Instr} {eff : State → State} {s : State} (hb : BetweenFrames s)
    (hc : Command.ofCode c.code = some c ∧ c.headerBytes = 0 ∧ c.payloadBytes [c.code] = 0)
    (hx : ∀ s, exec i s = whenPowered (actionFrame c eff) s)
    (hcom : ∀ m p, eff (withPort m p s) = withPort m p (eff s)) (hpi : (eff s).pins = s.pins) :
    execAll (.frameBegin :: (byteEdges c.code ++ [i])) s = exec i s := by
  have hp := powered_of_between hb
  rw [frameBegin_between hb, begun_eq, edges_inFrame hp (by decide), drainAt _ ⟨c, hc⟩]
  have : exec i (inFrame .drain [c.code] 1 s) = exec i s := by
    rw [hx, hx, whenPowered_up hp, whenPowered_up (s := inFrame .drain [c.code] 1 s) hp]
    refine congrArg _ ?_
    unfold actionFrame
    exact endFrame_in (take := fun t => (.ok, eff t)) hb (by decide) (fun m p => by dsimp only; rw [hcom]) hpi
  simp only [execAll]
  rw [this, hx, whenPowered_up hp]

/-- R193: an action command that may be refused, sent edge by edge, is its row. -/
theorem latchRow {c : Command} {i : Instr} {take : State → Status × State} {s : State} (hb : BetweenFrames s)
    (hc : Command.ofCode c.code = some c ∧ c.headerBytes = 0 ∧ c.payloadBytes [c.code] = 0)
    (hx : ∀ s, exec i s = whenPowered (endFrame [c.code] take) s)
    (hcom : ∀ m p, take (withPort m p s) = ((take s).1, withPort m p (take s).2)) (hpi : (take s).2.pins = s.pins) :
    execAll (.frameBegin :: (byteEdges c.code ++ [i])) s = exec i s := by
  have hp := powered_of_between hb
  rw [frameBegin_between hb, begun_eq, edges_inFrame hp (by decide), drainAt _ ⟨c, hc⟩]
  have : exec i (inFrame .drain [c.code] 1 s) = exec i s := by
    rw [hx, hx, whenPowered_up hp, whenPowered_up (s := inFrame .drain [c.code] 1 s) hp]
    exact congrArg _ (endFrame_in hb (by decide) hcom hpi)
  simp only [execAll]
  rw [this, hx, whenPowered_up hp]

/-! ### A WRITE_REG frame edge by edge -/

theorem contentLength_writeReg {a b count : Byte} {w : List Byte} (hv : countValid count = true) :
    contentLength (0x22 :: a :: b :: count :: w) = 4 + 4 * count.toNat := by
  have hc : commandOf (0x22 :: a :: b :: count :: w) = some .writeReg := by
    show Command.ofCode 0x22 = some .writeReg
    decide
  have hp : Command.writeReg.payloadBytes (0x22 :: a :: b :: count :: w) = 4 * count.toNat := by
    show (if countValid count = true then 4 * count.toNat else 0) = _
    rw [if_pos hv]
  unfold contentLength
  rw [hc]
  dsimp only
  rw [hp]
  rfl

/-- R184, R185: where a WRITE_REG frame with `w` of its payload stands. -/
def payloadState (count : Byte) (w : List Byte) : FrameState :=
  if w.length = 4 * count.toNat then .drain else .payload

theorem payloadByte {a b count x : Byte} {w : List Byte} {n : Half} {s : State} (hv : countValid count = true) :
    byteComplete x (inFrame .payload (0x22 :: a :: b :: count :: w) n s)
      = inFrame (payloadState count (w ++ [x])) (0x22 :: a :: b :: count :: (w ++ [x])) (satInc n) s := by
  have hl := contentLength_writeReg (a := a) (b := b) (w := w ++ [x]) hv
  show (if ((0x22 :: a :: b :: count :: w) ++ [x]).length = contentLength ((0x22 :: a :: b :: count :: w) ++ [x]) then _
    else _) = _
  rw [show (0x22 :: a :: b :: count :: w) ++ [x] = 0x22 :: a :: b :: count :: (w ++ [x]) from rfl, hl]
  simp only [List.length_cons, payloadState]
  by_cases h : (w ++ [x]).length = 4 * count.toNat
  · rw [if_pos h, if_pos (by omega)]; rfl
  · rw [if_neg h, if_neg (by omega)]; rfl

/-- The payload bytes arrive one after the other. -/
theorem payload_edges {a b count : Byte} {s : State} (hp : Powered s) (hv : countValid count = true) (rest : List Instr)
    (bs : List Byte) : ∀ (w : List Byte) (n : Half), w.length + bs.length ≤ 4 * count.toNat →
    ∃ n', execAll (bs.flatMap byteEdges ++ rest)
        (inFrame (payloadState count w) (0x22 :: a :: b :: count :: w) n s)
      = execAll rest (inFrame (payloadState count (w ++ bs)) (0x22 :: a :: b :: count :: (w ++ bs)) n' s) := by
  induction bs with
  | nil => intro w n _; exact ⟨n, by simp⟩
  | cons x bs ih =>
    intro w n hl
    rw [List.length_cons] at hl
    have hst : payloadState count w = .payload := if_neg (by omega)
    obtain ⟨n', h⟩ := ih (w ++ [x]) (satInc n) (by simp; omega)
    refine ⟨n', ?_⟩
    rw [List.flatMap_cons, List.append_assoc, hst, edges_inFrame hp (by decide), payloadByte hv, h]
    simp

/-- R184: the header of a WRITE_REG frame with a count of 1..64 arrives. -/
theorem writeReg_header {index : Half} {count : Byte} {s : State} (hb : BetweenFrames s) (hv : countValid count = true)
    (rest : List Instr) :
    execAll (.frameBegin :: (byteEdges 0x22 ++ byteEdges (index.extractLsb' 8 8) ++ byteEdges (index.extractLsb' 0 8)
        ++ byteEdges count ++ rest)) s
      = execAll rest (inFrame .payload [0x22, index.extractLsb' 8 8, index.extractLsb' 0 8, count] 4 s) := by
  have hp := powered_of_between hb
  simp only [List.append_assoc]
  rw [frameBegin_between hb, begun_eq, edges_inFrame hp (by decide),
    show byteComplete 0x22 (inFrame .command [] 0 s) = inFrame .header [0x22] 1 s from rfl, edges_inFrame hp (by decide),
    show ∀ x, byteComplete x (inFrame .header [0x22] 1 s) = inFrame .header [0x22, x] 2 s from fun _ => rfl,
    edges_inFrame hp (by decide),
    show ∀ x y, byteComplete y (inFrame .header [0x22, x] 2 s) = inFrame .header [0x22, x, y] 3 s from fun _ _ => rfl,
    edges_inFrame hp (by decide)]
  have : ∀ x y z, countValid z = true → byteComplete z (inFrame .header [0x22, x, y] 3 s)
      = inFrame .payload [0x22, x, y, z] 4 s := by
    intro x y z hz
    show State.setMgp _ _ = _
    rw [hz]; rfl
  rw [this _ _ _ hv]

/-- R184, R188: all of a WRITE_REG frame with its payload has been shifted in. -/
theorem writeReg_edges {index : Half} {count : Byte} {words : List Word} {s : State} (hb : BetweenFrames s)
    (hv : countValid count = true) (hl : words.length = count.toNat) (rest : List Instr) :
    ∃ n, execAll (.frameBegin :: (byteEdges 0x22 ++ byteEdges (index.extractLsb' 8 8)
        ++ byteEdges (index.extractLsb' 0 8) ++ byteEdges count
        ++ ((words.flatMap wordBytes).flatMap byteEdges ++ rest))) s
      = execAll rest (inFrame .drain (writeRegBytes index count words) n s) := by
  have hw : ∀ l : List Word, (l.flatMap wordBytes).length = 4 * l.length := by
    intro l; induction l with
    | nil => rfl
    | cons x l ih => rw [List.flatMap_cons, List.length_append, ih]; simp [wordBytes]; omega
  have hc : 1 ≤ count.toNat := by
    have : countValid count = true ↔ 1 ≤ count.toNat ∧ count.toNat ≤ 64 := by
      simp only [countValid, decide_eq_true_eq]; exact Iff.rfl
    exact (this.1 hv).1
  obtain ⟨n, h⟩ := payload_edges (a := index.extractLsb' 8 8) (b := index.extractLsb' 0 8) (powered_of_between hb) hv rest
    (words.flatMap wordBytes) [] 4 (by rw [hw]; simp; omega)
  refine ⟨n, ?_⟩
  rw [writeReg_header hb hv]
  have h0 : payloadState count [] = .payload := if_neg (by simp; omega)
  have h1 : payloadState count ([] ++ words.flatMap wordBytes) = .drain := if_pos (by rw [List.nil_append, hw, hl])
  rw [h0, h1] at h
  rw [h]
  have : writeRegBytes index count words = 0x22 :: index.extractLsb' 8 8 :: index.extractLsb' 0 8 :: count
      :: ([] ++ words.flatMap wordBytes) := by
    simp only [writeRegBytes, hv, if_true, ← hl, List.take_length]; rfl
  rw [this]

theorem writeMode_port (m : Mgp) (p : Pins) (mode : BitVec 3) (s : State) :
    writeMode mode (withPort m p s) = withPort m p (writeMode mode s) := by
  unfold writeMode
  dsimp only
  rw [show ∀ (a : Tst) (b : Tcu), ((mapEntries Entry.untraced (withPort m p s)).setTst a).setTcu b
    = withPort m p (((mapEntries Entry.untraced s).setTst a).setTcu b) from fun _ _ => rfl]
  exact cancelCapture_port m p _

theorem writeWord_port (m : Mgp) (p : Pins) (x : WinWord) (w : Word) (s : State) :
    writeWord (withPort m p s) x w = withPort m p (writeWord s x w) := by
  cases x
  case storeMode => exact writeMode_port m p _ s
  all_goals rfl

theorem writeWords_port (m : Mgp) (p : Pins) : ∀ (l : List (Option WinWord × Word)) (s : State),
    writeWords (withPort m p s) l = withPort m p (writeWords s l)
  | [], _ => rfl
  | (some x, w) :: rest, s => by
    simp only [writeWords, writeWord_port]; exact writeWords_port m p rest _
  | (none, _) :: rest, s => writeWords_port m p rest s

theorem takeWriteReg_port (m : Mgp) (p : Pins) (index : Half) (count : Byte) (words : List Word) (s : State) :
    takeWriteReg index count words (withPort m p s)
      = ((takeWriteReg index count words s).1, withPort m p (takeWriteReg index count words s).2) := by
  unfold takeWriteReg
  have hs : writeRegStatus index count (withPort m p s) = writeRegStatus index count s := by
    unfold writeRegStatus; rw [show (withPort m p s).tsq = s.tsq from rfl]
  rw [hs, writeWords_port]
  split
  · split <;> rfl
  · rfl

theorem writeWords_pins : ∀ (l : List (Option WinWord × Word)) (s : State), (writeWords s l).pins = s.pins
  | [], _ => rfl
  | (some x, w) :: rest, s => by
    simp only [writeWords]; rw [writeWords_pins rest]; cases x <;> simp [writeWord, writeMode]
  | (none, _) :: rest, s => writeWords_pins rest s

theorem takeWriteReg_pins (index : Half) (count : Byte) (words : List Word) (s : State) :
    (takeWriteReg index count words s).2.pins = s.pins := by
  unfold takeWriteReg
  split
  · split
    · exact writeWords_pins _ _
    · rfl
  · rfl

end Sys2Proof.Machine
end

