-- ==== Sys2Proof/Laws/Layouts.lean ====
section
/-! SUPPORT. Fields placed one after the other: a slot or word built with `place` is the fields joined with `++`
(R111, R197). To join a layout, start from `place_self` on the joined side and rewrite with `place_append`. -/
namespace Sys2Proof.Machine

/-- Two neighbouring fields are placed one above the other. -/
theorem place_append {v w : Nat} (n lo : Nat) (x : BitVec v) (y : BitVec w) :
    place n lo (x ++ y) = place n (lo + w) x ||| place n lo y := by
  apply BitVec.eq_of_getLsbD_eq
  intro i hi
  simp only [place, BitVec.getLsbD_append, BitVec.getLsbD_or, BitVec.getLsbD_setWidth, BitVec.getLsbD_shiftLeft, hi,
    decide_true, Bool.true_and]
  by_cases h : i < lo
  · simp [h, show i < lo + w by omega]
  · by_cases h2 : i < lo + w
    · simp [h, h2, show i - lo < w by omega]
    · have : i - lo - w = i - (lo + w) := by omega
      simp [h, h2, show ¬ i - lo < w by omega, this, BitVec.getLsbD_of_ge y (i - lo) (by omega),
        show i - lo < n by omega, show i - (lo + w) < n by omega]

/-- A field as wide as the slot is the slot. -/
theorem place_self {n : Nat} (x : BitVec n) : place n 0 x = x := by simp [place]

/-- A field of zeros leaves a slot as it is. -/
theorem place_zero {n lo w : Nat} : place n lo (0#w) = 0 := by simp [place]

end Sys2Proof.Machine
end

