-- ==== Sys2Proof/Laws/Slots.lean ====
section
/-! SUPPORT. What the operations of the commands leave in each slot of OTT. -/
namespace Sys2Proof.Machine

/-! ### Fields that are written whole -/

@[simp] theorem setTxn_rqp (t : Option RqpTxn) (s : State) : (setTxn t s).rqp = { s.rqp with inProcess := t } := rfl
@[simp] theorem setCapture_tcu (c : Option Capture) (s : State) : (setCapture c s).tcu = { s.tcu with capture := c } := rfl
@[simp] theorem releaseFlag_rqp (s : State) : (releaseFlag s).rqp = { s.rqp with held := false } := rfl


/-! ### Slots -/

/-- R99: the RESPONSE record takes from the slot's reservation alone. -/
theorem answerResponse_entry (f : Bool) (s : State) (n : Fin 64) :
    ∃ x ≤ (entry s n).reservation, entry (answerResponse f s) n = { entry s n with reservation := x } := by
  unfold answerResponse
  split
  · dsimp only
    split
    · simpa using offerRecord_entry _ _ _ s n
    · exact ⟨_, Nat.le_refl _, by simp⟩
  · exact ⟨_, Nat.le_refl _, rfl⟩

theorem forwardResponse_entry (s : State) (n : Fin 64) :
    ∃ x ≤ (entry s n).reservation, entry (forwardResponse s) n = { entry s n with reservation := x } := by
  unfold forwardResponse
  split
  · split
    · exact answerResponse_entry false s n
    · exact ⟨_, Nat.le_refl _, rfl⟩
  · exact ⟨_, Nat.le_refl _, rfl⟩

theorem evaluateResponse_entry (m : Fin 64) (st : DownStatus) (d : List BeatData) (s : State) (n : Fin 64) :
    ∃ x ≤ (entry s n).reservation, entry (evaluateResponse m st d s) n = { entry s n with reservation := x } := by
  unfold evaluateResponse
  dsimp only
  split
  · have h := answerResponse_entry false ((recordHits
        (hitSet s.mu.channels (watchedResponse (entry s m) st d)) s).setRsp
      { inProcess := some { slot := m, phase := .checks, status := st, data := d } }) n
    rwa [entry_setRsp, entry_recordHits] at h
  · exact ⟨_, Nat.le_refl _, by simp⟩

theorem takeMatched_entry (m : Fin 64) (r : Response) (s : State) (n : Fin 64) :
    ∃ x ≤ (entry s n).reservation, entry (takeMatched m r s) n = { entry s n with reservation := x } := by
  unfold takeMatched
  dsimp only
  split
  · exact evaluateResponse_entry ..
  · have h := evaluateResponse_entry m .fault [] (takeAnomaly (entryAnomaly .malformedResponse m (entry s m))
      (s.setRsp { inProcess := some { slot := m, phase := .checks, status := r.status, data := r.beats } })) n
    rwa [entry_takeAnomaly, entry_setRsp] at h

/-- R96: a placed REQUEST record marks the entry as traced and gives it the response reservation. -/
theorem placeRequest_entry (r : Request) (n : Fin 64) (s : State) (m : Fin 64) :
    entry (placeRequest r n s) m = entry s m ∨ m = n ∧ ∃ c, s.tcu.capture = some c ∧
      entry (placeRequest r n s) m = { entry s m with traced := true, reservation := c.responseReservation } := by
  unfold placeRequest
  split
  · rename_i c hc
    dsimp only
    split
    · by_cases h : m = n
      · subst h; right; simp [hc]
      · left; simp [entry_setEntry, h]
    · left; simp
  · left; rfl

/-- R166: taking a request leaves every slot alone. -/
theorem takeRequest_ott (r : Request) (s : State) : (takeRequest r s).ott = s.ott := by
  unfold takeRequest; (repeat' split) <;> simp

/-- R195, R24: CLEAR_WATCH clears traced and reservation. -/
theorem clearWatch_entry (s : State) (n : Fin 64) : entry (clearWatch s) n = (entry s n).untraced := by
  unfold clearWatch
  dsimp only
  simp only [entry_setAlc, entry_clearSummary]
  obtain ⟨x, hx, h⟩ := forwardResponse_entry (forwardRequest (cancelCapture (releaseFlag ((((clearMatches (mapEntries
    Entry.untraced s)).setTsq (clearTsq (clearMatches (mapEntries Entry.untraced s)).tsq)).setTcu (clearTcu
        (clearMatches
    (mapEntries Entry.untraced s)).tcu)).setTst (clearTst (clearMatches (mapEntries Entry.untraced s)).tst))))) n
  rw [h]
  simp only [entry_forwardRequest, entry_cancelCapture, entry_releaseFlag, entry_setTst, entry_setTcu, entry_setTsq,
    entry_clearMatches, entry_mapEntries] at hx ⊢
  simp only [Entry.untraced] at hx ⊢
  have : x = 0 := by omega
  subst this; rfl

theorem linkReset_entry (s : State) (n : Fin 64) : entry (linkReset s) n = (entry s n).freed := by
  simp [linkReset, discardTraffic]

theorem powerOn_entry (s : State) (n : Fin 64) : entry (powerOn s) n = Entry.reset := by
  simp [entry, powerOn, State.reset]

end Sys2Proof.Machine
end

