-- ==== Sys2Proof/Laws/Moves.lean ====
section
/-! SUPPORT. What the operations that answer no message do to the paths, the table and the queue: one relation,
its consequences for the invariants of 01, 03 and 09, and one lemma per operation. -/
namespace Sys2Proof.Machine

/-! ### The occupation of RQP -/

/-- R175: a request in process holds one position. -/
theorem reservedPositions_some {s : State} {t : RqpTxn} (h : s.rqp.inProcess = some t) : reservedPositions s = 1 := by simp [reservedPositions, h]

/-- R58: actions do not end the request in process. -/
theorem deliver_isSome (a : BitVec 7) (s : State) : (deliver a s).rqp.inProcess.isSome = s.rqp.inProcess.isSome := by
  unfold deliver
  dsimp only
  rw [settleRoom_isSome]
  have h1 : ∀ s, (if Action.release a = true then releaseFlag s else s).rqp.inProcess.isSome = s.rqp.inProcess.isSome
      := by
    intro s; split <;> simp
  have h2 : ∀ s, (if Action.hold a = true then hold s else s).rqp.inProcess.isSome = s.rqp.inProcess.isSome := by
    intro s; split; exact (hold_rqp s).2.2.2; rfl
  have h3 : ∀ s, (if Action.captureOff a = true then setCapturing false s else s).rqp.inProcess.isSome =
      s.rqp.inProcess.isSome := by
    intro s; split <;> simp
  have h4 : ∀ s, (if Action.captureOn a = true then setCapturing true s else s).rqp.inProcess.isSome =
      s.rqp.inProcess.isSome := by
    intro s; split <;> simp
  have h6 : ∀ s, (if Action.pulse a = true then startPulse s else s).rqp.inProcess.isSome = s.rqp.inProcess.isSome
      := by
    intro s; split <;> simp
  rw [h6, (raiseIf_frame _ _ _).2.2.2.1, h4, h3, h2, h1]

theorem transition_isSome (c : StageCause) (g : BitVec 3) (a : BitVec 7) (s : State) :
    (transition c g a s).rqp.inProcess.isSome = s.rqp.inProcess.isSome := by
  rw [(transition_delivered c g a s).2.2.2, deliver_isSome]

theorem countInput_isSome (x : BitVec 10) (s : State) : (countInput x s).2.rqp.inProcess.isSome =
    s.rqp.inProcess.isSome := by
  unfold countInput
  dsimp only
  (repeat' split) <;> simp [transition_isSome]

theorem forwardRequest_isSome (s : State) : (forwardRequest s).rqp.inProcess.isSome = s.rqp.inProcess.isSome := by
  unfold forwardRequest
  split
  · rename_i t h; split <;> simp [h]
  · rfl

theorem rqpTick_isSome (s : State) : (rqpTick s).rqp.inProcess.isSome = s.rqp.inProcess.isSome := by
  unfold rqpTick
  dsimp only
  (repeat' split) <;> simp [settleRoom_isSome]

/-! ### Going on -/

/-- One request goes on: the phase may change, outside VERDICT_WAIT, and an offer selects a FREE slot. -/
def GoesOn (t : State) (x y : RqpTxn) : Prop :=
  y.req = x.req ∧ y.hits = x.hits ∧ (y.phase = x.phase ∨ x.phase ≠ .verdictWait ∧ y.phase ≠ .verdictWait
      ∧ ∀ n, y.phase = .offered n → (entry t n).state = .free)

/-- What an operation that answers no message leaves: RSP and the reports stay, LIVE and FREE slots do not come to
be LIVE or cease to be FREE, the queue only grows by synthesized responses, and the request in process goes on. -/
structure Moves (s t : State) : Prop where
  bound : ∀ x, s.rsp.inProcess = some x → (entry t x.slot).state = (entry s x.slot).state
      ∧ (entry t x.slot).kind = (entry s x.slot).kind
    ∧ (entry t x.slot).lenM1 = (entry s x.slot).lenM1 ∧ (entry t x.slot).tag = (entry s x.slot).tag
        ∧ (entry t x.slot).initiator = (entry s x.slot).initiator
  free : ∀ n, (entry s n).state = .free → (entry t n).state = .free
  live : ∀ n, (entry t n).state = .live → (entry s n).state = .live ∧ (entry t n).tag = (entry s n).tag
      ∧ (entry t n).initiator = (entry s n).initiator
  rsp : t.rsp = s.rsp
  offer : t.rmg.offer = s.rmg.offer
  queue : ∀ r ∈ t.rmg.queue, r ∈ s.rmg.queue ∨ (r.data = [] ∧ (r.status = .protocol ∨ r.status = .fenced
      ∨ r.status = .timeout))
  nonempty : s.rmg.queue ≠ [] → t.rmg.queue ≠ []
  rqpReport : t.tsq.rqpReport = s.tsq.rqpReport
  rspReport : t.tsq.rspReport = s.tsq.rspReport
  none : s.rqp.inProcess = .none → t.rqp.inProcess = .none
  some : ∀ x, s.rqp.inProcess = .some x → ∃ y, t.rqp.inProcess = .some y ∧ GoesOn t x y

theorem rspAnswer_congr {s t : State} (h : t.rsp = s.rsp) : rspAnswer t = rspAnswer s := by unfold rspAnswer; rw [h]

theorem upstreamAnswer_congr {e e' : Entry} (h1 : e'.tag = e.tag) (h2 : e'.initiator = e.initiator) (t : RspTxn) (f : Bool) :
    upstreamAnswer e' t f = upstreamAnswer e t f := by unfold upstreamAnswer; rw [h1, h2]

/-- The request in process afterwards is the one before. -/
theorem Moves.rqpBack {s t : State} (m : Moves s t) {y : RqpTxn} (h : t.rqp.inProcess = .some y) :
    ∃ x, s.rqp.inProcess = .some x ∧ GoesOn t x y := by
  cases hx : s.rqp.inProcess with
  | none => rw [m.none hx] at h; cases h
  | some x =>
    obtain ⟨y', h1, h2⟩ := m.some x hx
    rw [h] at h1; cases h1
    exact ⟨x, rfl, h2⟩

/-- R6: LIVE pairs stay distinct, and the request in process stays no duplicate of one. -/
theorem Moves.table {s t : State} (m : Moves s t) (h : LivePairsDistinct s
    ∧ RequestNotDuplicate s) : LivePairsDistinct t ∧ RequestNotDuplicate t := by
  refine ⟨fun a b ha hb hi ht => ?_, fun y hy n hn hp => ?_⟩
  · have la := m.live a ha; have lb := m.live b hb
    exact h.1 a b la.1 lb.1 (by rw [← la.2.2, ← lb.2.2, hi]) (by rw [← la.2.1, ← lb.2.1, ht])
  · obtain ⟨x, hx, hr, _⟩ := m.rqpBack hy
    have ln := m.live n hn
    exact h.2 x hx n ln.1 ⟨by rw [← ln.2.2, hp.1, hr], by rw [← ln.2.1, hp.2, hr]⟩

/-- Nothing that matters changes but the phase of the request. -/
theorem Moves.ofRqp {s t : State} (hott : t.ott = s.ott) (hrsp : t.rsp = s.rsp) (hrmg : t.rmg = s.rmg)
    (h1 : t.tsq.rqpReport = s.tsq.rqpReport)
    (h2 : t.tsq.rspReport = s.tsq.rspReport) (hn : s.rqp.inProcess = .none → t.rqp.inProcess = .none)
    (hs : ∀ x, s.rqp.inProcess = .some x → ∃ y, t.rqp.inProcess = .some y ∧ GoesOn t x y) : Moves s t where
  bound x _ := by simp [entry_congr hott]
  free n h := by rw [entry_congr hott]; exact h
  live n h := by rw [entry_congr hott] at h ⊢; exact ⟨h, rfl, rfl⟩
  rsp := hrsp
  offer := by rw [hrmg]
  queue r h := by rw [hrmg] at h; exact .inl h
  nonempty h := by rw [hrmg]; exact h
  rqpReport := h1
  rspReport := h2
  none := hn
  some := hs

theorem GoesOn.refl (t : State) (x : RqpTxn) : GoesOn t x x := ⟨rfl, rfl, .inl rfl⟩

/-- Nothing that matters changes. -/
theorem Moves.same {s t : State} (hott : t.ott = s.ott) (hrsp : t.rsp = s.rsp) (hrmg : t.rmg = s.rmg)
    (h1 : t.tsq.rqpReport = s.tsq.rqpReport)
    (h2 : t.tsq.rspReport = s.tsq.rspReport) (h3 : t.rqp.inProcess = s.rqp.inProcess) : Moves s t :=
  .ofRqp hott hrsp hrmg h1 h2 (fun h => by rw [h3, h]) (fun x h => ⟨x, by rw [h3, h], .refl _ _⟩)

/-- Only the slots change: LIVE and FREE ones as `live`, `free` and `bound` say. -/
theorem Moves.slots {s t : State} (hrsp : t.rsp = s.rsp) (hrmg : t.rmg = s.rmg) (h1 : t.tsq = s.tsq)
    (h3 : t.rqp.inProcess = s.rqp.inProcess)
    (hb : ∀ n : Fin 64, Machine.bound s n = true → (entry t n).state = (entry s n).state)
    (hf : ∀ n : Fin 64, (entry s n).state = .free → (entry t n).state = .free)
    (hl : ∀ n : Fin 64, (entry t n).state = .live → (entry s n).state = .live)
    (hk : ∀ n : Fin 64, (entry t n).kind = (entry s n).kind ∧ (entry t n).lenM1 = (entry s n).lenM1
        ∧ (entry t n).tag = (entry s n).tag ∧ (entry t n).initiator = (entry s n).initiator) : Moves s t where
  bound x h := ⟨hb _ (by simp [Machine.bound, h]), (hk _).1, (hk _).2.1, (hk _).2.2.1, (hk _).2.2.2⟩
  free := hf
  live n h := ⟨hl n h, (hk _).2.2.1, (hk _).2.2.2⟩
  rsp := hrsp
  offer := by rw [hrmg]
  queue r h := by rw [hrmg] at h; exact .inl h
  nonempty h := by rw [hrmg]; exact h
  rqpReport := by rw [h1]
  rspReport := by rw [h1]
  none h := by rw [h3, h]
  some x h := ⟨x, by rw [h3, h], .refl _ _⟩

/-- One after the other. -/
theorem Moves.trans {s t u : State} (a : Moves s t) (b : Moves t u) : Moves s u where
  bound x h := by
    have h1 := a.bound x h
    have h2 := b.bound x (by rw [a.rsp, h])
    exact ⟨h2.1.trans h1.1, h2.2.1.trans h1.2.1, h2.2.2.1.trans h1.2.2.1, h2.2.2.2.1.trans h1.2.2.2.1,
        h2.2.2.2.2.trans h1.2.2.2.2⟩
  free n h := b.free n (a.free n h)
  live n h := by
    have h2 := b.live n h
    have h1 := a.live n h2.1
    exact ⟨h1.1, h2.2.1.trans h1.2.1, h2.2.2.trans h1.2.2⟩
  rsp := b.rsp.trans a.rsp
  offer := b.offer.trans a.offer
  queue r h := by
    rcases b.queue r h with h | h
    · exact a.queue r h
    · exact .inr h
  nonempty h := b.nonempty (a.nonempty h)
  rqpReport := b.rqpReport.trans a.rqpReport
  rspReport := b.rspReport.trans a.rspReport
  none h := b.none (a.none h)
  some x h := by
    obtain ⟨y, hy, g1, g2, g3⟩ := a.some x h
    obtain ⟨z, hz, k1, k2, k3⟩ := b.some y hy
    refine ⟨z, hz, k1.trans g1, k2.trans g2, ?_⟩
    rcases k3 with k3 | k3
    · rcases g3 with g3 | g3
      · exact .inl (k3.trans g3)
      · exact .inr ⟨g3.1, by rw [k3]; exact g3.2.1, fun n hn => b.free n (g3.2.2 n (by rw [← k3, hn]))⟩
    · rcases g3 with g3 | g3
      · exact .inr ⟨by rw [← g3]; exact k3.1, k3.2.1, k3.2.2⟩
      · exact .inr ⟨g3.1, k3.2.1, k3.2.2⟩

theorem Moves.refl (s : State) : Moves s s := .same rfl rfl rfl rfl rfl rfl

/-- R123, R169: room wait settled. -/
theorem settleRoom_moves (s : State) : Moves s (settleRoom s) := by
  refine .ofRqp (by simp) (by simp) (by simp) (by simp) (by simp) (fun h => ?_) (fun x h => ?_)
  · have := settleRoom_isSome s
    rw [h] at this
    simpa using this
  · obtain ⟨p, h1, h2⟩ := settleRoom_inProcess h
    refine ⟨_, h1, rfl, rfl, ?_⟩
    rcases h2 with h2 | ⟨h2, _, n, h3, h4⟩
    · exact .inl h2
    · refine .inr ⟨by rw [h2]; decide, by rw [h3]; nofun, fun m hm => ?_⟩
      rw [h3] at hm; cases hm
      simpa using h4.1

/-- R58: actions delivered. -/
theorem deliver_moves (a : BitVec 7) (s : State) : Moves s (deliver a s) := by
  refine .ofRqp (by simp) (by simp) (by simp) (by simp) (by simp) (fun h => ?_) (fun x h => ?_)
  · have := deliver_isSome a s
    rw [h] at this
    simpa using this
  · obtain ⟨p, h1, h2⟩ := deliver_inProcess (a := a) h
    refine ⟨_, h1, rfl, rfl, ?_⟩
    rcases h2 with h2 | ⟨⟨n, h2⟩, h3⟩ | ⟨h2, n, h3, h4⟩
    · exact .inl h2
    · refine .inr ⟨by rw [h2]; nofun, by rw [h3]; nofun, fun m hm => by rw [h3] at hm; cases hm⟩
    · refine .inr ⟨by rw [h2]; nofun, by rw [h3]; nofun, fun m hm => ?_⟩
      rw [h3] at hm; cases hm
      simpa using h4.1

theorem afterTransition_reports (g : BitVec 3) (t : Tsq) : (afterTransition g t).rqpReport = t.rqpReport
    ∧ (afterTransition g t).rspReport = t.rspReport := ⟨rfl, rfl⟩

theorem transition_moves (c : StageCause) (g : BitVec 3) (a : BitVec 7) (s : State) : Moves s (transition c g a s) :=
  (deliver_moves a s).trans (.same (by simp) (by simp) (by simp)
      (by simp [transition_tsq, afterTransition_reports])
      (by simp [transition_tsq, afterTransition_reports]) (transition_delivered c g a s).2.2.2)

/-- R55 to R57: an input counted. -/
theorem countInput_moves (x : BitVec 10) (s : State) : Moves s (countInput x s).2 := by
  unfold countInput
  dsimp only
  split
  · split
    · exact transition_moves ..
    · split
      · exact transition_moves ..
      · exact .same rfl rfl rfl rfl rfl rfl
  · exact .refl s
  · exact .refl s

/-- R16: the RESPONSE record of an abandoned entry. -/
theorem timeoutRecord_moves (n : Fin 64) (s : State) : Moves s (timeoutRecord n s) := by
  unfold timeoutRecord
  dsimp only
  split
  · rename_i h
    refine Moves.trans (.slots (by simp) (by simp) (by simp) (by simp) ?_ ?_ ?_ ?_) (settleRoom_moves _)
    all_goals
      intro m
      rw [entry_setEntry]
      obtain ⟨x, _, h1⟩ := offerRecord_entry (responseRecord .timeout (entry s n).initiator (entry s n).tag (slotCode
          n) (entry s n).age none s.tbs.timestamp) (.reservation n) none s m
      obtain ⟨y, _, h2⟩ := offerRecord_entry (responseRecord .timeout (entry s n).initiator (entry s n).tag (slotCode
          n) (entry s n).age none s.tbs.timestamp) (.reservation n) none s n
      split
      · rename_i e; subst e; simp [Entry.untraced, h2]
      · simp [h1]
  · exact .refl s

/-- R3, R4, R8, R177: the paths stay in agreement with the table. -/
theorem Moves.pat {s t : State} (m : Moves s t) (h : PathsAgreeWithTable s) : PathsAgreeWithTable t := by
  obtain ⟨p1, p2, p3, p4, p5⟩ := h
  refine ⟨fun x hx => ?_, fun y n hy hp => ?_, fun hn => ?_, ?_, ?_⟩
  · rw [m.rsp] at hx; rw [(m.bound x hx).1]; exact p1 x hx
  · obtain ⟨x, hx, _, _, hg⟩ := m.rqpBack hy
    rcases hg with hg | hg
    · exact m.free n (p2 x n hx (by rw [← hg, hp]))
    · exact hg.2.2 n hp
  · have : s.rqp.inProcess ≠ .none := fun h => hn (m.none h)
    obtain ⟨n, hn⟩ := p3 this
    exact ⟨n, m.free n hn⟩
  · intro ho; rw [rspAnswer_congr m.rsp]; exact p4 (by rw [← m.offer]; exact ho)
  · intro ho; exact m.nonempty (p5 (by rw [← m.offer]; exact ho))

/-- R51, R163: the reports stay with the paths, and the responses well formed. -/
theorem Moves.rep {s t : State} (m : Moves s t) (h : ReportsAgreeWithPaths s
    ∧ ResponsesWellFormed s) : ReportsAgreeWithPaths t ∧ ResponsesWellFormed t := by
  obtain ⟨⟨q1, q2, q3, q4⟩, r1, r2, r3⟩ := h
  refine ⟨⟨fun h hh => ?_, fun y hy hp => ?_, ?_, ?_⟩, fun r hr => ?_, fun x hx => ?_, fun x a hx hp => ?_⟩
  · rw [m.rqpReport] at hh
    obtain ⟨h0, x, hx, hp, hx2⟩ := q1 h hh
    obtain ⟨y, hy, _, g2, hg⟩ := m.some x hx
    refine ⟨h0, y, hy, ?_, by rw [g2, hx2]⟩
    rcases hg with hg | hg
    · rw [hg, hp]
    · exact absurd hp hg.1
  · obtain ⟨x, hx, _, g2, hg⟩ := m.rqpBack hy
    rw [m.rqpReport, g2]
    rcases hg with hg | hg
    · exact q2 x hx (by rw [← hg, hp])
    · exact absurd hp hg.2.1
  · intro h hh; rw [m.rsp]; exact q3 h (by rw [← m.rspReport]; exact hh)
  · intro x hx hp; rw [m.rsp] at hx; rw [m.rspReport]; exact q4 x hx hp
  · rcases m.queue r hr with h | h
    · exact r1 r h
    · exact h
  · rw [m.rsp] at hx
    have b := m.bound x hx
    rw [b.2.1, b.2.2.1]; exact r2 x hx
  · rw [m.rsp] at hx
    have b := m.bound x hx
    rw [upstreamAnswer_congr b.2.2.2.1 b.2.2.2.2, upstreamAnswer_congr b.2.2.2.1 b.2.2.2.2]; exact r3 x a hx hp

/-- Every slot changed by the same function. -/
theorem Moves.mapped {s : State} (f : Entry → Entry) (p : PathsAgreeWithTable s)
    (hl : ∀ e : Entry, e.state = .live → (f e).state = .live) (hf : ∀ e : Entry, e.state = .free
        → (f e).state = .free)
    (ho : ∀ e : Entry, e.state = .orphaned → (f e).state ≠ .live)
    (hk : ∀ e : Entry, (f e).kind = e.kind ∧ (f e).lenM1 = e.lenM1 ∧ (f e).tag = e.tag
        ∧ (f e).initiator = e.initiator) :
    Moves s (mapEntries f s) := by
  refine .slots (by simp) (by simp) (by simp) (by simp) (fun n h => ?_) (fun n h => ?_) (fun n h => ?_) (fun n => ?_)
  · have : (entry s n).state = .live := by
      unfold Machine.bound at h
      split at h
      · rename_i x hx; simp at h; rw [← h]; exact p.1 x hx
      · cases h
    simp [this, hl]
  · simp [hf, h]
  · simp at h
    cases hs : (entry s n).state with
    | live => rfl
    | free => have := hf _ hs; rw [h] at this; cases this
    | orphaned => exact absurd h (ho _ hs)
  · simpa using hk (entry s n)

/-- R8: the slot bound to RSP is LIVE. -/
theorem bound_live {s : State} (p : PathsAgreeWithTable s) {n : Fin 64} (h : Machine.bound s n = true) : (entry s n).state = .live := by
  unfold Machine.bound at h
  split at h
  · rename_i x hx; simp at h; rw [← h]; exact p.1 x hx
  · cases h

/-- R176: a synthesized response enters the queue. -/
theorem enqueue_moves {r : UpResponse} (s : State) (h : r.data = [] ∧ (r.status = .protocol ∨ r.status = .fenced ∨ r.status = .timeout)) : Moves s (enqueue r s) where
  bound x _ := by simp
  free n h := by simpa using h
  live n h := by simpa using h
  rsp := by simp
  offer := rfl
  queue r' h' := by
    simp [enqueue] at h'
    rcases h' with h' | h'
    · exact .inl h'
    · subst h'; exact .inr h
  nonempty _ := by simp [enqueue]
  rqpReport := rfl
  rspReport := rfl
  none h := h
  some x h := ⟨x, h, .refl _ _⟩

theorem takeAnomaly_moves (a : Anomaly) (s : State) : Moves s (takeAnomaly a s) :=
  .same (by simp) (by simp) (by simp) (by simp [takeAnomaly_tsq]) (by simp [takeAnomaly_tsq]) (by simp)

theorem timeoutAnomaly_moves (n : Fin 64) (e : Entry) (s : State) : Moves s (timeoutAnomaly n e s) := by
  unfold timeoutAnomaly; split
  · exact .refl s
  · exact takeAnomaly_moves _ s

theorem offerEvent_moves (r : Record) (s : State) : Moves s (offerEvent r s) := .same (by simp) (by simp)
    (by simp) (by simp) (by simp) (by simp)

/-- One slot written. -/
theorem setEntry_moves {s : State} {n : Fin 64} {e : Entry} (hb : Machine.bound s n = true → e.state = (entry s n).state)
    (hf : (entry s n).state = .free → e.state = .free) (hl : e.state = .live → (entry s n).state = .live)
    (hk : e.kind = (entry s n).kind ∧ e.lenM1 = (entry s n).lenM1 ∧ e.tag = (entry s n).tag
        ∧ e.initiator = (entry s n).initiator) :
    Moves s (setEntry n e s) := by
  refine .slots (by simp) (by simp) (by simp) (by simp) (fun m h => ?_) (fun m h => ?_) (fun m h => ?_) (fun m => ?_)
  all_goals (try rw [entry_setEntry] at *)
  all_goals split at *
  all_goals first | (rename_i e; subst e) | skip
  · exact hb h
  · rfl
  · exact hf h
  · exact h
  · exact hl h
  · exact h
  · exact hk
  · exact ⟨rfl, rfl, rfl, rfl⟩

theorem setChoices_moves (s : State) (n : Nat) : Moves s (s.setChoices n) := .same rfl rfl rfl rfl rfl rfl

/-- R16: an expiry under ABANDON. -/
theorem abandon_moves {s : State} {n : Fin 64} (hd : Due s n) : Moves s (abandon n s) := by
  have h1 : Moves s (enqueue (timeoutAnswer (entry s n)) s) :=
    enqueue_moves s ⟨rfl, .inr (.inr rfl)⟩
  have h2 : Moves s (setEntry n { entry s n with state := .orphaned } (enqueue (timeoutAnswer (entry s n)) s)) := by
    refine h1.trans (setEntry_moves (fun h => ?_) (fun h => ?_) (fun h => by cases h) ⟨by simp, by simp, by simp, by
        simp⟩)
    · have := bound_false.2 hd.2.1
      have e : Machine.bound (enqueue (timeoutAnswer (entry s n)) s) n = Machine.bound s n := by
        unfold Machine.bound; simp
      rw [e, this] at h; cases h
    · simp [hd.1] at h
  unfold abandon
  dsimp only
  split
  · split
    · exact ((h2.trans (setChoices_moves _ _)).trans (timeoutAnomaly_moves _ _ _)).trans (timeoutRecord_moves _ _)
    · exact ((h2.trans (setChoices_moves _ _)).trans (timeoutRecord_moves _ _)).trans (timeoutAnomaly_moves _ _ _)
  · exact (h2.trans (timeoutAnomaly_moves _ _ _)).trans (timeoutRecord_moves _ _)

/-- R17: the claims. -/
theorem makeClaims_moves (s : State) : Moves s (makeClaims s) :=
  makeClaims_kept (P := fun t => Moves s t) (fun _ _ h _ hd _ => h.trans (abandon_moves hd)) (.refl s)

/-- R17, R176: the claims at the report of a freed position. -/
theorem claimAtReport_moves (s : State) : Moves s (claimAtReport s) :=
  claimAtReport_kept (P := fun t => Moves s t) (fun _ _ h _ hd _ => h.trans (abandon_moves hd)) (setChoices_moves _ _)
    (.refl s)

theorem expireReport_moves (n : Fin 64) (s : State) : Moves s (expireReport n s) := by
  unfold expireReport; split
  · have h : Moves s (setEntry n { entry s n with expired := true } s) :=
      setEntry_moves (fun _ => rfl) (fun h => h) (fun h => h) ⟨rfl, rfl, rfl, rfl⟩
    exact h.trans (takeAnomaly_moves _ _)
  · exact .refl s

/-- R12, R14: the tick of OTT. -/
theorem ottTick_moves (s : State) (p : PathsAgreeWithTable s) : Moves s (ottTick s) := by
  have h0 : Moves s (mapEntries Entry.aged s) := .mapped _ p
    (fun e h => by simp [Entry.aged, h]) (fun e h => by simp [Entry.aged, h]) (fun e h => by simp [Entry.aged, h])
    (fun e => by unfold Entry.aged; split <;> simp)
  unfold ottTick; dsimp only; split
  · exact foldl_kept (fun t n => expireReport n t) (fun t => Moves s t) (fun t n h => h.trans (expireReport_moves n
        t)) _ _ h0
  · exact h0.trans (makeClaims_moves _)

theorem rqpTick_moves (s : State) : Moves s (rqpTick s) := by
  unfold rqpTick; dsimp only; split
  · split
    · refine Moves.trans (.same ?_ ?_ ?_ ?_ ?_ ?_) (settleRoom_moves _) <;> simp
    · exact .same rfl rfl rfl rfl rfl rfl
  · exact .refl s

theorem tsqTick_moves (s : State) : Moves s (tsqTick s) := by
  unfold tsqTick; dsimp only; split
  · exact .same rfl rfl rfl rfl rfl rfl
  · exact .refl s

theorem pulseTick_moves (s : State) : Moves s (pulseTick s) := by
  unfold pulseTick; split
  · exact .refl s
  · exact .same rfl rfl rfl rfl rfl rfl

/-- R97: the capture in hand cancelled. -/
theorem cancelCapture_moves (s : State) : Moves s (cancelCapture s) := by
  refine .ofRqp (by simp) (by simp) (by simp) (by simp) (by simp) (fun h => ?_) (fun x h => ?_)
  · have := (cancelCapture_spec s).2.2.2.2
    rw [h] at this; simpa using this
  · unfold cancelCapture
    simp [h]
    split
    · rename_i hp
      split
      · exact ⟨_, rfl, rfl, rfl, .inr ⟨by simp [hp], by simp, fun n hn => by cases hn⟩⟩
      · unfold beginOffer
        split
        · rename_i n hn
          refine ⟨{ x with phase := .offered n }, by simp, rfl, rfl, .inr ⟨by simp [hp], by simp, fun m hm => ?_⟩⟩
          simp at hm; subst hm
          have := (lowestFree_eq_some.1 hn).1
          simpa using this
        · exact ⟨x, by simp [h], .refl _ _⟩
    · exact ⟨x, by simp [h], .refl _ _⟩


/-- R80, R94: the hold point passed. -/
theorem passHoldPoint_moves (s : State) : Moves s (passHoldPoint s) := by
  unfold passHoldPoint
  split
  · rename_i x hx
    split
    · rename_i h
      dsimp only
      refine Moves.trans ?_ (settleRoom_moves _)
      refine .ofRqp ?_ ?_ ?_ ?_ ?_ (fun h => ?_) (fun y hy => ?_)
      · split <;> simp
      · split <;> simp
      · split <;> simp
      · split <;> simp
      · split <;> simp
      · rw [hx] at h; cases h
      · rw [hx] at hy; cases hy
        exact ⟨_, rfl, rfl, rfl, .inr ⟨by rw [h.1]; nofun, by nofun, fun n hn => by cases hn⟩⟩
    · exact .refl s
  · exact .refl s


theorem setTst_moves (s : State) (x : Tst) : Moves s (s.setTst x) := .same rfl rfl rfl rfl rfl rfl

theorem freeSlot_moves (s : State) : Moves s (freeSlot s) := by
  unfold freeSlot; split
  · exact (setTst_moves _ _).trans (settleRoom_moves _)
  · exact .refl s

theorem release_moves (s : State) : Moves s (release s) := by
  unfold release
  refine Moves.trans ?_ (settleRoom_moves _)
  exact .same rfl rfl rfl rfl rfl rfl

end Sys2Proof.Machine
end

