-- ==== Sys2Proof/Laws/Room.lean ====
section
/-! SUPPORT. The operations keep fill, reserved count and claim together within the store (R115, R122, R123). -/
namespace Sys2Proof.Machine

/-- R122: smaller reservations, a smaller reserved count. -/
theorem reserved_mono {s t : State}
    (h : ∀ n, (entry t n).reservation ≤ (entry s n).reservation) : reserved t ≤ reserved s := by
  have key : ∀ l k : List Nat, l.length = k.length → (∀ i (h1 : i < l.length) (h2 : i < k.length), l[i] ≤ k[i])
      → l.sum ≤ k.sum := by
    intro l
    induction l with
    | nil => intro k _ _; simp
    | cons a l ih =>
      intro k hl hi
      cases k with
      | nil => simp at hl
      | cons b k =>
        have h0 := hi 0 (by simp) (by simp)
        have h1 := ih k (by simpa using hl) (fun i a b => by have := hi (i+1) (by simp; omega) (by simp; omega); simpa using this)
        simp at h0 ⊢; omega
  refine key _ _ (by simp) (fun i h1 h2 => ?_)
  have := h ⟨i, by simpa using h1⟩
  simpa [entry] using this

/-- Less in the store, less reserved, the same mode, the same capture or none: still within bound. -/
theorem store_le {s t : State} (hf : fill t + reserved t ≤ fill s + reserved s) (hr : reserved t ≤ reserved s)
    (hm : modeOf t = modeOf s)
    (hc : t.tcu.capture = s.tcu.capture ∨ t.tcu.capture = none) (h : StoreWithinBound s) : StoreWithinBound t := by
  obtain ⟨h1, h2, h3⟩ := h
  have hcl : claim t ≤ claim s := by
    rcases hc with hc | hc
    · exact Nat.le_of_eq (claim_congr hc)
    · simp [claim, hc]
  refine ⟨by omega, fun hn => ?_, fun c hx hn => ?_⟩
  · rw [hm] at hn; have := h2 hn; omega
  · rw [hm] at hn
    rcases hc with hc | hc
    · rw [hc] at hx; exact h3 c hx hn
    · rw [hc] at hx; cases hx

/-- The slots, the store and the capture in hand unchanged: still within bound. -/
theorem store_same {s t : State} (h1 : t.ott = s.ott) (h2 : t.tst = s.tst) (h3 : t.tcu.capture = s.tcu.capture)
    (h : StoreWithinBound s) : StoreWithinBound t :=
  store_le (Nat.le_of_eq (by rw [fill_congr h2, reserved_congr h1])) (Nat.le_of_eq (by rw [reserved_congr h1])) (modeOf_congr h2) (.inl h3) h

/-- R118: removing records takes no slots. -/
theorem slotsOf_ringRemove (size : Nat) : ∀ (l : List Record) (free : Nat), slotsOf (ringRemove free size l).2 ≤
    slotsOf l := by
  intro l
  induction l with
  | nil => intro f; simp [ringRemove]
  | cons r l ih =>
    intro f
    unfold ringRemove
    split
    · exact Nat.le_refl _
    · have := ih (f + r.length)
      simp [slotsOf] at *; omega

/-- R117 to R124: what a group leaves of fill and reservations. -/
theorem storeTake_bound (g : List Record) (k : Nat) (b : Backing) (s : State) (hb : ∀ c, b ≠ .claim c)
    (hk : k ≤ slotsOf g) (h : StoreWithinBound s) :
    fill (storeTake g k b s).2 + reserved (storeTake g k b s).2 + claim s ≤ Config.storeSlots
        ∧ reserved (storeTake g k b s).2 ≤ reserved s := by
  obtain ⟨h1, h2, h3⟩ := h
  have keep : fill s + reserved s + claim s ≤ Config.storeSlots ∧ reserved s ≤ reserved s := ⟨h1, Nat.le_refl _⟩
  unfold storeTake
  split
  · exact keep
  · rename_i hm
    have hz := h2 (by rw [hm]; nofun)
    unfold ringTake
    split
    · rename_i hf
      rw [fill_appendGroup, reserved_congr (appendGroup_frame ..).1]
      unfold freeSlots at hf; simp only [Config.storeSlots] at *; omega
    · split
      · exact keep
      · dsimp only
        have hrem : ∀ t : State, t = s.setTst { s.tst with records := (ringRemove (freeSlots s) (slotsOf g) s.tst.records).2, overwrite := satAdd s.tst.overwrite (ringRemove (freeSlots s) (slotsOf g) s.tst.records).1 } → fill t ≤ fill s ∧ reserved t = reserved s := by
          intro t ht; subst ht
          refine ⟨?_, rfl⟩
          have := slotsOf_ringRemove (slotsOf g) s.tst.records (freeSlots s)
          simp only [fill, egressTail, State.setTst_tst]; omega
        have hrem := hrem _ rfl
        generalize s.setTst { s.tst with records := (ringRemove (freeSlots s) (slotsOf g) s.tst.records).2, overwrite := satAdd s.tst.overwrite (ringRemove (freeSlots s) (slotsOf g) s.tst.records).1 } = t at *
        split
        · rename_i hf
          rw [fill_appendGroup, reserved_congr (appendGroup_frame ..).1]
          unfold freeSlots at hf; simp only [Config.storeSlots] at *; omega
        · exact keep
  · rename_i hm
    have hz := h2 (by rw [hm]; nofun)
    unfold stopTake
    split
    · rename_i hf
      simp at hf
      rw [fill_appendGroup, reserved_congr (appendGroup_frame ..).1]
      unfold freeSlots at hf; simp only [Config.storeSlots] at *; omega
    · exact keep
  · rename_i hm
    unfold dropTake
    split
    · rename_i hf
      rw [fill_appendGroup, reserved_congr (appendGroup_frame ..).1]
      unfold unclaimedFree freeSlots at hf; simp only [Config.storeSlots] at *; omega
    · exact keep
  · unfold stallTake
    split
    · split
      · rename_i hf
        rw [fill_appendGroup, reserved_congr (appendGroup_frame ..).1]
        unfold unclaimedFree freeSlots at hf; simp only [Config.storeSlots] at *; omega
      · exact keep
    · exact absurd rfl (hb _)
    · rename_i n
      split
      · rename_i hf
        rw [fill_appendGroup, reserved_congr (appendGroup_frame ..).1]
        have := reserved_setEntry n { entry s n with reservation := (entry s n).reservation - k } s
        rw [fill_congr (s := s) (by simp)]
        simp only at this
        unfold unclaimedFree freeSlots at hf; simp only [Config.storeSlots] at *; omega
      · exact keep

/-- R117 to R124: a record request without the claim. -/
theorem offerRecord_store (r : Record) (b : Backing) (f : Option (Addr × Byte)) (s : State)
    (hb : ∀ c, b ≠ .claim c) (h : StoreWithinBound s) :
    StoreWithinBound (offerRecord r b f s).2 := by
  by_cases hm : modeOf s = .off
  · rw [offerRecord_off hm]; exact h
  · have ht := offerRecord_tst r b f s
    have hc := (offerRecord_tcu r b f s).2.2.2.2
    have hmode : modeOf (offerRecord r b f s).2 = modeOf s := by unfold modeOf; rw [ht.1]
    have hk := storeTake_bound (composeGroup r s) r.length b s hb (record_le_group r s) h
    have ho := offerRecord_ott (r := r) (b := b) (f := f) hm
    have hfill : fill (offerRecord r b f s).2 = fill (storeTake (composeGroup r s) r.length b s).2 := by
      unfold offerRecord
      dsimp only
      rw [if_neg hm]
      split <;> exact fill_congr (by simp)
    have hres := reserved_congr ho
    obtain ⟨h1, h2, h3⟩ := h
    refine ⟨by rw [hfill, hres, claim_congr hc]; exact hk.1, fun hn => ?_, fun c hx hn => ?_⟩
    · rw [hmode] at hn; have := h2 hn; rw [hres, claim_congr hc]; omega
    · rw [hmode] at hn; rw [hc] at hx; exact h3 c hx hn

theorem offerEvent_store (r : Record) {s : State} (h : StoreWithinBound s) : StoreWithinBound (offerEvent r s)
    := offerRecord_store _ _ _ _ nofun h

theorem takeAnomaly_store (a : Anomaly) {s : State} (h : StoreWithinBound s) : StoreWithinBound (takeAnomaly a s)
    := by
  unfold takeAnomaly
  dsimp only
  refine offerEvent_store _ ?_
  split <;> exact store_same (by simp) (by simp) (by simp) h

/-- R123: a grant. -/
theorem grantClaim_store {s : State} (h : StoreWithinBound s) : StoreWithinBound (grantClaim s) := by
  unfold grantClaim
  split
  · rename_i c hc
    split
    · rename_i hg
      simp at hg
      obtain ⟨h1, h2, h3⟩ := h
      have hcl : claim (setCapture (some { c with granted := true }) s) = c.claimSize := by simp [claim]
      have hcl0 : claim s = 0 := by simp [claim, hc, hg.1]
      have hf : fill (setCapture (some { c with granted := true }) s) = fill s := fill_congr (by simp)
      have hr : reserved (setCapture (some { c with granted := true }) s) = reserved s := reserved_congr (by simp)
      have hm : modeOf (setCapture (some { c with granted := true }) s) = modeOf s := modeOf_congr (by simp)
      refine ⟨?_, fun hn => ?_, fun d hd hn => ?_⟩
      · rw [hcl, hf, hr]; have := hg.2; unfold freeSlots at this; simp only [Config.storeSlots] at *; omega
      · rw [hm] at hn; have := (h3 c hc hn).2; omega
      · rw [hm] at hn; simp at hd; subst hd; exact h3 c hc hn
    · exact h
  · exact h

theorem beginOffer_capture (t : RqpTxn) (s : State) : (beginOffer t s).tcu = s.tcu := by unfold beginOffer; split <;> simp

/-- R123, R169: room wait settled. -/
theorem settleRoom_store {s : State} (h : StoreWithinBound s) : StoreWithinBound (settleRoom s) := by
  unfold settleRoom
  split
  · split
    · dsimp only
      split
      · exact store_same (by simp) (by simp) (by simp) (grantClaim_store h)
      · exact grantClaim_store h
    · exact h
  · exact h

theorem setEntry_store {s : State} {n : Fin 64} {e : Entry} (he : e.reservation ≤ (entry s n).reservation) (h : StoreWithinBound s) : StoreWithinBound (setEntry n e s) := by
  have := reserved_setEntry n e s
  exact store_le (by rw [fill_congr (s := s) (by simp)]; omega) (by omega) (modeOf_congr (by simp)) (.inl (by simp)) h

theorem mapEntries_store {s : State} {f : Entry → Entry} (he : ∀ e, (f e).reservation ≤ e.reservation) (h : StoreWithinBound s) : StoreWithinBound (mapEntries f s) := by
  have hr : reserved (mapEntries f s) ≤ reserved s := reserved_mono (fun n => by rw [entry_mapEntries]; exact he _)
  exact store_le (by rw [fill_congr (s := s) (by simp)]; omega) hr (modeOf_congr (by simp)) (.inl (by simp)) h

theorem timeoutRecord_store (n : Fin 64) {s : State}
    (h : StoreWithinBound s) : StoreWithinBound (timeoutRecord n s) := by
  unfold timeoutRecord
  dsimp only
  split
  · exact settleRoom_store (setEntry_store (Nat.zero_le _) (offerRecord_store _ _ _ _ nofun h))
  · exact h

theorem timeoutAnomaly_store (n : Fin 64) (e : Entry) {s : State}
    (h : StoreWithinBound s) : StoreWithinBound (timeoutAnomaly n e s) := by
  unfold timeoutAnomaly; split
  · exact h
  · exact takeAnomaly_store _ h

/-- R16: an expiry under ABANDON. -/
theorem abandon_store (n : Fin 64) {s : State} (h : StoreWithinBound s) : StoreWithinBound (abandon n s) := by
  unfold abandon
  dsimp only
  have h0 : ∀ a, StoreWithinBound (setEntry n { entry s n with state := .orphaned } (enqueue a s)) := fun a =>
    setEntry_store (by simp) (store_same (by simp) (by simp) (by simp) h)
  split
  · split
    · exact timeoutRecord_store _ (timeoutAnomaly_store _ _ (store_same (State.setChoices_ott _ _)
          (State.setChoices_tst _ _) rfl (h0 _)))
    · exact timeoutAnomaly_store _ _ (timeoutRecord_store _ (store_same (State.setChoices_ott _ _)
          (State.setChoices_tst _ _) rfl (h0 _)))
  · exact timeoutRecord_store _ (timeoutAnomaly_store _ _ (h0 _))

theorem makeClaims_store {s : State} (h : StoreWithinBound s) : StoreWithinBound (makeClaims s) :=
  makeClaims_kept (fun _ n h _ _ _ => abandon_store n h) h

theorem claimAtReport_store {s : State} (h : StoreWithinBound s) : StoreWithinBound (claimAtReport s) :=
  claimAtReport_kept (fun _ n h _ _ _ => abandon_store n h)
    (store_same (State.setChoices_ott _ _) (State.setChoices_tst _ _) rfl h) h

theorem deliver_store (a : BitVec 7) {s : State} (h : StoreWithinBound s) : StoreWithinBound (deliver a s) := by
  unfold deliver
  dsimp only
  refine settleRoom_store (store_same (s := s) ?_ ?_ ?_ h) <;> (repeat' split) <;> simp [setCapturing]

theorem transition_store (c : StageCause) (g : BitVec 3) (a : BitVec 7) {s : State}
    (h : StoreWithinBound s) : StoreWithinBound (transition c g a s) := by
  unfold transition
  dsimp only
  exact store_same (by simp) (by simp)
      (by simp) (offerEvent_store (stageRecord (stageFrom s.tsq.stage) (stageTo g) c a (deliver a s).tbs.timestamp)
      (deliver_store a h))

theorem countInput_store (x : BitVec 10) {s : State}
    (h : StoreWithinBound s) : StoreWithinBound (countInput x s).2 := by
  unfold countInput
  dsimp only
  split
  · split
    · exact transition_store _ _ _ h
    · split
      · exact transition_store _ _ _ h
      · exact store_same rfl rfl rfl h
  · exact h
  · exact h

theorem answerResponse_store (f : Bool) {s : State}
    (h : StoreWithinBound s) : StoreWithinBound (answerResponse f s) := by
  unfold answerResponse
  split
  · dsimp only
    split
    · rename_i t _ _
      have := offerRecord_store (responseRecord (recordStatus t f) (entry s t.slot).initiator (entry s t.slot).tag
          (slotCode t.slot)
          (satHalf (s.tbs.timestamp - (entry s t.slot).stamp).toNat) (responseData (entry s t.slot) t f s)
              s.tbs.timestamp) (.reservation t.slot) none s (fun _ h => by cases h) h
      exact store_same (State.setRsp_ott _ _) (State.setRsp_tst _ _) rfl this
    · exact store_same rfl rfl rfl h
  · exact h

theorem cancelCapture_store {s : State} (h : StoreWithinBound s) : StoreWithinBound (cancelCapture s) :=
  store_le (Nat.le_of_eq (by rw [fill_congr (s := s) (by simp), reserved_congr (s := s) (by simp)])) (Nat.le_of_eq (by rw [reserved_congr (s := s) (by simp)])) (modeOf_congr (by simp)) (.inr (by simp [(cancelCapture_spec s).1])) h

/-- R96, R122: the REQUEST record of the capture in hand, and the reservation that comes out of its claim. -/
theorem placeRequest_store (r : Request) (n : Fin 64) {s : State} (he : (entry s n).reservation = 0)
    (h : StoreWithinBound s) :
    StoreWithinBound (placeRequest r n s) := by
  unfold placeRequest
  split
  · rename_i c hc
    dsimp only
    by_cases hm : modeOf s = .streamStall
    · by_cases hf : slotsOf (composeGroup (requestRecord r c.withData n s) s) + c.responseReservation ≤ freeSlots s
      · rw [offerRecord_claim_fits hm hf]
        simp only [if_true]
        generalize hu : setCapture none (((appendGroup (composeGroup (requestRecord r c.withData n s) s) (fill s)
            s).setTcu (groupPlaced (needsLoss s) (needsSync s) (some (r.addr, r.context)) s.tbs.timestamp s.tcu))) = u
        have h1 : fill u = fill s + slotsOf (composeGroup (requestRecord r c.withData n s) s) := by rw [← fill_appendGroup _ (fill s), ← hu]; exact fill_congr (by simp)
        have h2 : reserved u = reserved s := by rw [← hu]; exact reserved_congr (by simp)
        have h3 : modeOf u = modeOf s := by rw [← hu]; unfold modeOf; simp
        have h4 : u.tcu.capture = none := by rw [← hu]; simp
        have h5 : entry u n = entry s n := by rw [← hu]; exact entry_congr (by simp) n
        have h6 := reserved_setEntry n { entry u n with traced := true, reservation := c.responseReservation } u
        rw [h5, he] at h6
        simp only [h5]
        refine ⟨?_, fun hn => ?_, fun d hd => ?_⟩
        · rw [fill_congr (s := u) (by simp), claim_congr (s := u) (by simp)]
          simp only at h6
          have h1' := h.1
          have : claim u = 0 := by simp [claim, h4]
          unfold freeSlots at hf; simp only [Config.storeSlots] at *
          omega
        · exact absurd (by rw [modeOf_congr (s := u) (by simp), h3]; exact hm) hn
        · simp [h4] at hd
      · have : (offerRecord (requestRecord r c.withData n s) (.claim c.responseReservation) (some (r.addr,
            r.context)) s) = (false, raise .loss (s.setTcu (groupDropped true s.tcu))) := by
          unfold offerRecord
          simp only [hm, storeTake, stallTake, hf, if_false]
          rfl
        rw [this]
        simp only [Bool.false_eq_true, if_false]
        refine store_le (s := s) ?_ ?_ ?_ (.inr ?_) h
        · exact Nat.le_of_eq (by rw [fill_congr (s := s) (by simp), reserved_congr (s := s) (by simp)])
        · exact Nat.le_of_eq (by rw [reserved_congr (s := s) (by simp)])
        · exact modeOf_congr (by simp)
        · simp
    · have hz := h.2.2 c hc hm
      rw [hz.1]
      have hb : StoreWithinBound (setCapture none (offerRecord (requestRecord r c.withData n s) (.claim 0) (some
          (r.addr, r.context)) s).2) := by
        have hst : (offerRecord (requestRecord r c.withData n s) (.claim 0) (some (r.addr, r.context)) s) =
            (offerRecord (requestRecord r c.withData n s) .unbacked (some (r.addr, r.context)) s) := by
          unfold offerRecord storeTake
          split
          · rfl
          · dsimp only
            cases hmm : modeOf s <;> simp_all
        rw [hst]
        have := offerRecord_store (requestRecord r c.withData n s) .unbacked (some (r.addr, r.context)) s nofun h
        refine store_le ?_ ?_ (modeOf_congr (by simp)) (.inr (by simp)) this
        · exact Nat.le_of_eq (by rw [fill_congr (s := (offerRecord (requestRecord r c.withData n s) .unbacked (some (r.addr, r.context)) s).2) (by simp), reserved_congr (s := (offerRecord (requestRecord r c.withData n s) .unbacked (some (r.addr, r.context)) s).2) (by simp)])
        · exact Nat.le_of_eq (by rw [reserved_congr (s := (offerRecord (requestRecord r c.withData n s) .unbacked (some (r.addr, r.context)) s).2) (by simp)])
      split
      · exact setEntry_store (Nat.zero_le _) hb
      · exact hb
  · exact h

/-- R94, R95: a capture decision. -/
theorem decideCapture_store (x : RqpTxn) {s : State}
    (h : StoreWithinBound s) : StoreWithinBound (decideCapture x s) := by
  unfold decideCapture
  obtain ⟨h1, h2, h3⟩ := h
  split
  · have hf : ∀ c, fill (setCapture c s) = fill s := fun c => fill_congr (by simp)
    have hr : ∀ c, reserved (setCapture c s) = reserved s := fun c => reserved_congr (by simp)
    have hm : ∀ c, modeOf (setCapture c s) = modeOf s := fun c => modeOf_congr (by simp)
    refine ⟨?_, fun hn => ?_, fun d hd hn => ?_⟩
    · rw [hf, hr]; simp [claim]; omega
    · rw [hm] at hn; rw [hr]; exact ⟨(h2 hn).1, by simp [claim]⟩
    · rw [hm] at hn; simp at hd; subst hd; simp [responseReservation, claimSizeOf, hn]
  · exact store_le (Nat.le_of_eq (by rw [fill_congr (s := s) (by simp), reserved_congr (s := s) (by simp)])) (Nat.le_of_eq (by rw [reserved_congr (s := s) (by simp)])) (modeOf_congr (by simp)) (.inr (by simp)) ⟨h1, h2, h3⟩

end Sys2Proof.Machine
end

