-- ==== Sys2Proof/Laws/Steps.lean ====
section
/-! SUPPORT. A property of states that the operations of the blocks keep is kept by every command and every step. -/
namespace Sys2Proof.Machine

/-- The operations that the commands are made of keep `P`; those that move messages are asked about only while both
link ports are up (R161, R180), and LRST_N goes low outside a link reset only while PORST_N is asserted. -/
structure KeptByOperations (P : State → Prop) : Prop where
  pending : ∀ s q, P s → P (s.setPending q)
  mgp : ∀ s m, P s → P (s.setMgp m)
  cs : ∀ s b, P s → P (s.setPins { s.pins with cs := b })
  lrst : ∀ s b, P s → (b = true → s.pins.porst = true) → P (s.setPins { s.pins with lrst := b })
  porst : ∀ s, P s → P (s.setPins { s.pins with porst := false })
  takeRequest : ∀ r s, linkUp s = true → P s → P (takeRequest r s)
  passHoldPoint : ∀ s, linkUp s = true → P s → P (passHoldPoint s)
  takeDownstream : ∀ s, linkUp s = true → P s → P (takeDownstream s)
  takeResponse : ∀ r s, linkUp s = true → P s → P (takeResponse r s)
  beginUpstreamOffer : ∀ s, linkUp s = true → P s → P (beginUpstreamOffer s)
  takeUpstream : ∀ s, linkUp s = true → P s → P (takeUpstream s)
  takeReport : ∀ s, P s → P (takeReport s)
  takeXt : ∀ s, P s → P (takeXt s)
  takeAn : ∀ s, P s → P (takeAn s)
  takeDwell : ∀ s, P s → P (takeDwell s)
  takeArm : ∀ s, P s → P (takeArmCommand s)
  takeDisarm : ∀ s, P s → P (takeDisarmCommand s)
  latchXt : ∀ s, P s → P (latchXt s)
  tick : ∀ s, P s → P (tickEvent s)
  prescale : ∀ s, P s → s.tbs.prescale.toNat + 1 ≠ effectiveDivisor s.tbs.divisor →
    P (s.setTbs { s.tbs with prescale := s.tbs.prescale + 1 })
  beginRecord : ∀ s, P s → P (beginRecord s)
  freeSlot : ∀ s, P s → P (freeSlot s)
  passByte : ∀ s x, P s → s.tst.tx = some x →
    P (s.setTst { s.tst with tx := some { x with bytePos := x.bytePos + 1 } })
  linkReset : ∀ s, P s → P (linkReset s)
  powerOn : ∀ s, P s → P (powerOn s)
  pin : ∀ s n, P s → P (s.setTst { s.tst with snapshot := some n })
  removeRead : ∀ n s, P s → P (removeRead n s)
  writeWord : ∀ s x w, P s → (locked x = true → s.tsq.state ≠ .armed) → P (writeWord s x w)
  latchArm : ∀ s, P s → P (latchArm s).2
  latchDisarm : ∀ s, P s → P (latchDisarm s).2
  release : ∀ s, P s → P (release s)
  purge : ∀ s, P s → P (purge s)
  setCapturing : ∀ b s, P s → P (setCapturing b s)
  placeMark : ∀ v s, P s → P (placeMark v s)
  acknowledge : ∀ x s, P s → P (acknowledge x s)
  clearSummary : ∀ s, P s → P (clearSummary s)
  clearMatches : ∀ s, P s → P (clearMatches s)
  clearWatch : ∀ s, P s → P (clearWatch s)

/-- R46, R188: writing words leaves the sequencer's state alone. -/
theorem writeWord_seqState (s : State) (x : WinWord) (w : Word) : (writeWord s x w).tsq.state = s.tsq.state := by
  cases x <;> simp [writeWord, writeMode]

namespace KeptByOperations
variable {P : State → Prop}

theorem whenPowered (f : State → State) (hf : ∀ s, P s → P (f s)) {s t : State} (hs : P s)
    (h : Machine.whenPowered f s = .next t) : P t := by
  unfold Machine.whenPowered at h
  cases h
  split
  · exact hs
  · exact hf s hs

theorem whenLinkUp (f : State → State) (hf : ∀ s, linkUp s = true → P s → P (f s)) {s t : State} (hs : P s)
    (h : Machine.whenLinkUp f s = .next t) : P t := by
  unfold Machine.whenLinkUp at h
  cases h
  split
  · rename_i h; exact hf s h hs
  · exact hs

theorem closeFrame (k : KeptByOperations P) (st : Status) (s : State) (hs : P s) : P (Machine.closeFrame st s) :=
  k.mgp _ _ (k.cs _ _ hs)

theorem endFrame (k : KeptByOperations P) (f : List Byte) (take : State → Status × State)
    (ht : ∀ s, P s → P (take s).2) (s : State) (hs : P s) : P (Machine.endFrame f take s) := by
  unfold Machine.endFrame
  split
  · exact k.closeFrame _ _ (ht s hs)
  · exact hs

theorem sendHeader (k : KeptByOperations P) (f : List Byte) (take : State → State) (ht : ∀ s, P s → P (take s))
    (s : State) (hs : P s) : P (Machine.sendHeader f take s) := by
  unfold Machine.sendHeader
  split
  · exact ht _ (k.mgp _ _ (k.cs _ _ hs))
  · exact hs

theorem fixRead (k : KeptByOperations P) (st : Status) (d : Option (List Byte)) (s : State) (hs : P s) :
    P (Machine.fixRead st d s) := k.mgp _ _ hs

theorem takeReadReg (k : KeptByOperations P) (i : Half) (c : Byte) (s : State) (hs : P s) :
    P (Machine.takeReadReg i c s) := by
  unfold Machine.takeReadReg
  split <;> exact k.fixRead _ _ _ hs

theorem takeReadEntry (k : KeptByOperations P) (n : Byte) (s : State) (hs : P s) : P (Machine.takeReadEntry n s) := by
  unfold Machine.takeReadEntry
  split <;> exact k.fixRead _ _ _ hs

theorem takeTraceRead (k : KeptByOperations P) (c : Half) (s : State) (hs : P s) : P (Machine.takeTraceRead c s) := by
  unfold Machine.takeTraceRead
  dsimp only
  split
  · exact k.fixRead _ _ _ (k.pin _ _ hs)
  · exact k.fixRead _ _ _ hs

theorem headerComplete (k : KeptByOperations P) (s : State) (hs : P s) : P (Machine.headerComplete s) := by
  unfold Machine.headerComplete
  split
  · split
    · exact k.takeReadReg _ _ _ hs
    · exact k.mgp _ _ hs
  · exact k.takeTraceRead _ _ hs
  · exact k.takeReadEntry _ _ hs
  · exact hs

theorem byteComplete (k : KeptByOperations P) (b : Byte) (s : State) (hs : P s) : P (Machine.byteComplete b s) := by
  unfold Machine.byteComplete commandComplete
  dsimp only
  split
  · split <;> exact k.mgp _ _ (k.mgp _ _ hs)
  · split
    · exact k.headerComplete _ (k.mgp _ _ (k.mgp _ _ hs))
    · exact k.mgp _ _ (k.mgp _ _ hs)
  · split
    · exact k.mgp _ _ (k.mgp _ _ (k.mgp _ _ hs))
    · exact k.mgp _ _ (k.mgp _ _ hs)
  · split
    · exact k.mgp _ _ (k.mgp _ _ hs)
    · exact k.mgp _ _ hs
  · exact k.mgp _ _ hs
  · exact k.mgp _ _ hs

theorem sclkEdge (k : KeptByOperations P) (bit : Bool) (s : State) (hs : P s) : P (Machine.sclkEdge bit s) := by
  unfold Machine.sclkEdge
  split
  · exact hs
  · split
    · exact k.byteComplete _ _ hs
    · exact k.mgp _ _ hs

theorem beginFrame (k : KeptByOperations P) (s : State) (hs : P s) : P (Machine.beginFrame s) := by
  unfold Machine.beginFrame
  split
  · exact k.mgp _ _ (k.cs _ _ hs)
  · exact hs

theorem abortFrame (k : KeptByOperations P) (s : State) (hs : P s) : P (Machine.abortFrame s) := by
  unfold Machine.abortFrame
  split
  · split
    · exact k.cs _ _ hs
    · exact k.closeFrame _ _ hs
  · split <;> exact k.closeFrame _ _ hs
  · exact k.closeFrame _ _ hs
  · exact k.closeFrame _ _ hs
  · exact hs
  · exact hs

theorem endReadFrame (k : KeptByOperations P) (s : State) (hs : P s) : P (Machine.endReadFrame s) := by
  unfold Machine.endReadFrame
  split
  · exact k.closeFrame _ _ hs
  · exact k.closeFrame _ _ hs
  · exact hs

theorem endTraceRead (k : KeptByOperations P) (n : Nat) (s : State) (hs : P s) : P (Machine.endTraceRead n s) := by
  unfold Machine.endTraceRead
  split
  · exact k.closeFrame _ _ (k.removeRead _ _ hs)
  · exact hs

theorem endBadCommand (k : KeptByOperations P) (c : Byte) (s : State) (hs : P s) : P (Machine.endBadCommand c s) := by
  unfold Machine.endBadCommand
  split
  · exact k.endFrame _ _ (fun _ h => h) _ hs
  · exact hs

theorem writeWords (k : KeptByOperations P) (l : List (Option WinWord × Word)) :
    ∀ s, P s → (∀ p ∈ l, ∀ x, p.1 = some x → locked x = true → s.tsq.state ≠ .armed) → P (Machine.writeWords s l) := by
  induction l with
  | nil => intro s hs _; exact hs
  | cons p l ih =>
    intro s hs hl
    rcases p with ⟨_ | x, w⟩ <;> unfold Machine.writeWords
    · exact ih s hs (fun q hq => hl q (by simp [hq]))
    · refine ih _ (k.writeWord s x w hs (hl (some x, w) (by simp) x rfl)) (fun q hq y hy => ?_)
      rw [writeWord_seqState]
      exact hl q (by simp [hq]) y hy

theorem writeFrame (k : KeptByOperations P) (i : Half) (c : Byte) (ws : List Word) (s : State) (hs : P s) :
    P (Machine.writeFrame i c ws s) := by
  refine k.endFrame _ _ (fun s hs => ?_) s hs
  unfold Machine.takeWriteReg
  split
  · split
    · rename_i h
      refine k.writeWords _ _ hs (fun p hp x hx hl ha => ?_)
      have hmem : p.1 ∈ rangeWords i c := (List.of_mem_zip (a := p.1) (b := p.2) hp).1
      have : rangeHas locked i c = true := by
        simp only [rangeHas, List.any_eq_true]
        exact ⟨p.1, hmem, by simp [hx, hl]⟩
      simp only [writeRegStatus, this, ha, decide_true, Bool.and_self] at h
      revert h
      cases rangeInWindow i c <;> simp
    · exact hs
  · exact hs

theorem actionFrame (k : KeptByOperations P) (c : Command) (f : State → State) (hf : ∀ s, P s → P (f s)) (s : State)
    (hs : P s) : P (Machine.actionFrame c f s) := k.endFrame _ _ hf s hs

theorem tickWhen (k : KeptByOperations P) (o : State → State → Bool) (s : State) (hs : P s) :
    P (Machine.tickWhen o s) := by
  unfold Machine.tickWhen
  split
  · exact k.tick s hs
  · exact hs

theorem refclkEdge (k : KeptByOperations P) (s : State) (hs : P s) : P (Machine.refclkEdge s) := by
  unfold Machine.refclkEdge
  split
  · exact k.tick s hs
  · rename_i h; exact k.prescale s hs h

theorem transfer (k : KeptByOperations P) (s : State) (hs : P s) : P (Machine.transfer s) := by
  unfold Machine.transfer
  split
  · rename_i x hx
    split
    · exact k.freeSlot s hs
    · exact k.passByte s x hs hx
  · exact k.beginRecord s hs

/-- Every command keeps the property. -/
theorem exec (k : KeptByOperations P) {c : Instr} {s t : State} (hs : P s) (h : Machine.exec c s = .next t) : P t := by
  cases c with
  | upstreamRequestTake r => exact whenLinkUp _ (k.takeRequest r) hs h
  | takeReport => exact whenPowered _ k.takeReport hs h
  | holdPointPass => exact whenLinkUp _ k.passHoldPoint hs h
  | downstreamRequestTake => exact whenLinkUp _ k.takeDownstream hs h
  | downstreamResponseTake r => exact whenLinkUp _ (k.takeResponse r) hs h
  | rmgBeginOffer => exact whenLinkUp _ k.beginUpstreamOffer hs h
  | upstreamResponseTake => exact whenLinkUp _ k.takeUpstream hs h
  | takeXtInput => exact whenPowered _ k.takeXt hs h
  | takeAnInput => exact whenPowered _ k.takeAn hs h
  | dwellExpiry => exact whenPowered _ k.takeDwell hs h
  | takeArm => exact whenPowered _ k.takeArm hs h
  | takeDisarm => exact whenPowered _ k.takeDisarm hs h
  | xtrigInEdge => exact whenPowered _ k.latchXt hs h
  | tick => exact whenPowered _ k.tick hs h
  | expiryUnderReport n => exact whenPowered _ (k.tickWhen _) hs h
  | expiryUnderAbandon n => exact whenPowered _ (k.tickWhen _) hs h
  | holdLimitExpiry => exact whenPowered _ (k.tickWhen _) hs h
  | dwellLimitReached => exact whenPowered _ (k.tickWhen _) hs h
  | pulseEnd => exact whenPowered _ (k.tickWhen _) hs h
  | egressRecordBegin => exact whenPowered _ k.beginRecord hs h
  | egressSlotFreed => exact whenPowered _ k.freeSlot hs h
  | linkReset =>
    simp only [Machine.exec, execLinkReset] at h
    cases h
    split
    · rename_i hp; exact k.lrst _ _ hs (fun _ => hp)
    · split
      · exact hs
      · exact k.linkReset s hs
  | linkResetEnd =>
    simp only [Machine.exec, execLinkResetEnd] at h
    cases h
    exact k.lrst _ _ hs nofun
  | powerOnReset =>
    simp only [Machine.exec, execPowerOnReset] at h
    cases h
    exact k.powerOn s hs
  | aborted =>
    simp only [Machine.exec, execAborted] at h
    cases h
    split
    · exact k.cs _ _ hs
    · exact k.abortFrame s hs
  | badCommand code => exact whenPowered _ (k.endBadCommand code) hs h
  | readReg i n => exact whenPowered _ (k.sendHeader _ _ (k.takeReadReg i n)) hs h
  | readEntry n => exact whenPowered _ (k.sendHeader _ _ (k.takeReadEntry n)) hs h
  | traceRead n => exact whenPowered _ (k.sendHeader _ _ (k.takeTraceRead n)) hs h
  | traceReadEnd n => exact whenPowered _ (k.endTraceRead n) hs h
  | channelRecordWrite i n ws => exact whenPowered _ (k.writeFrame i n ws) hs h
  | stageRecordWrite i n ws => exact whenPowered _ (k.writeFrame i n ws) hs h
  | timeoutWrite i n ws => exact whenPowered _ (k.writeFrame i n ws) hs h
  | holdLimitWrite i n ws => exact whenPowered _ (k.writeFrame i n ws) hs h
  | divisorWrite i n ws => exact whenPowered _ (k.writeFrame i n ws) hs h
  | modeWrite i n ws => exact whenPowered _ (k.writeFrame i n ws) hs h
  | captureConfigurationWrite i n ws => exact whenPowered _ (k.writeFrame i n ws) hs h
  | thresholdWrite i n ws => exact whenPowered _ (k.writeFrame i n ws) hs h
  | enableWrite i n ws => exact whenPowered _ (k.writeFrame i n ws) hs h
  | maskWrite i n ws => exact whenPowered _ (k.writeFrame i n ws) hs h
  | arm => exact whenPowered _ (k.endFrame _ _ k.latchArm) hs h
  | disarm => exact whenPowered _ (k.endFrame _ _ k.latchDisarm) hs h
  | releaseHold => exact whenPowered _ (k.actionFrame _ _ k.release) hs h
  | purgeOrphans => exact whenPowered _ (k.actionFrame _ _ k.purge) hs h
  | startCapture => exact whenPowered _ (k.actionFrame _ _ (k.setCapturing true)) hs h
  | stopCapture => exact whenPowered _ (k.actionFrame _ _ (k.setCapturing false)) hs h
  | mark v => exact whenPowered _ (k.endFrame _ _ (k.placeMark v)) hs h
  | ackAlert x => exact whenPowered _ (k.endFrame _ _ (k.acknowledge _)) hs h
  | ackAnomaly => exact whenPowered _ (k.actionFrame _ _ k.clearSummary) hs h
  | clearMatch => exact whenPowered _ (k.actionFrame _ _ k.clearMatches) hs h
  | clearWatch => exact whenPowered _ (k.actionFrame _ _ k.clearWatch) hs h
  | refclkRisingEdge => exact whenPowered _ k.refclkEdge hs h
  | egressTransfer => exact whenPowered _ k.transfer hs h
  | frameBegin =>
    simp only [Machine.exec, execFrameBegin] at h
    cases h
    split
    · exact k.cs _ _ hs
    · exact k.beginFrame s hs
  | sclkRisingEdge bit => exact whenPowered _ (k.sclkEdge bit) hs h
  | readFrameEnd => exact whenPowered _ k.endReadFrame hs h
  | powerOnResetEnd =>
    simp only [Machine.exec, execPowerOnResetEnd] at h
    cases h
    exact k.porst _ hs

/-- Every step keeps the property. -/
theorem step (k : KeptByOperations P) {s t : State} (hs : P s) (h : Machine.step s = .next t) : P t := by
  unfold Machine.step at h
  split at h
  · cases h; exact hs
  · exact k.exec (k.pending _ _ hs) h

end KeptByOperations

end Sys2Proof.Machine
end

