-- ==== Sys2Proof/WellFormed.lean ====
section
/-! DEFINITION. Which commands the ports can carry: the data beat counts of the messages (R161), and the codes that
name no command (R184). Every other operand holds its field's whole range. -/
namespace Sys2Proof

/-- R161: a message carries 0 to 16 data beats. -/
def beatsCarried {α : Type} (beats : List α) : Bool := decide (beats.length ≤ 16)

/-- The command can reach the part. -/
def Instr.wf : Instr → Bool
  | .upstreamRequestTake r => beatsCarried r.beats
  | .downstreamResponseTake r => beatsCarried r.beats
  | .badCommand code => (Machine.Command.ofCode code).isNone
  | _ => true

end Sys2Proof
end

