-- ==== Sys2Proof/Tests/Slice0.lean ====
section
/-! SUPPORT. Tests: the ill-formed commands that the check refuses, each command on a small state, the record
layouts against the worked sequences of chapter 11, and for every statement with hypotheses a state that meets
them. -/
namespace Sys2Proof.Tests
set_option Elab.async false
open Sys2Proof Sys2Proof.Machine

/-! ### Small states and messages -/

/-- The state a command leaves. -/
def result : Result → Option State
  | .next t => some t
  | _ => none

/-- A READ of four beats. -/
def readReq : Request :=
  { tag := 0x42, initiator := 3, context := 9, cls := .ordinary, kind := .read, addr := 0x1000, lenM1 := 3, beats := [] }

/-- A READ of sixteen beats that ends with its page. -/
def pageReq : Request := { readReq with addr := 0x1F00, lenM1 := 15 }

/-- A READ that leaves its page. -/
def crossReq : Request := { readReq with addr := 0x1F10, lenM1 := 15 }

/-- A WRITE of one beat. -/
def writeReq : Request :=
  { readReq with
    kind := .write, lenM1 := 0, addr := 0x4010000040
    beats := [⟨0x0F0E0D0C0B0A09080706050403020100, 0xFFFF⟩] }

/-- The entry that `readReq` leaves in a slot of generation 0, some ticks later. -/
def liveEntry : Entry :=
  { Entry.reset with
    state := .live, gen := true, tag := 0x42, initiator := 3, context := 9, addr := 0x1000, lenM1 := 3, age := 4 }

/-- Slot 0 holds the entry. -/
def withEntry (e : Entry) (s : State) : State := setEntry 0 e s

/-- Slots 0 to 62 are LIVE, each with a pair of its own. -/
def nearlyFull : State :=
  State.reset.setOtt { State.reset.ott with
    slots := Vector.ofFn fun i => if i.val = 63 then Entry.reset else { liveEntry with tag := BitVec.ofNat 8 i.val } }

/-- RQP holds a request in a phase. -/
def withTxn (r : Request) (phase : RqpPhase) (hits : Byte) (s : State) : State :=
  setTxn (some { req := r, phase := phase, hits := hits, decided := false }) s

/-- RSP holds the response of slot 0 in a phase. -/
def withRsp (phase : RspPhase) (s : State) : State :=
  s.setRsp { inProcess := some { slot := 0, phase := phase, status := .okay, data := [1, 2, 3, 4] } }

/-- The upstream response to `readReq`. -/
def answer : UpResponse := ⟨0x42, 3, .okay, [1, 2, 3, 4]⟩

/-- The store in a mode, with records. -/
def withStore (mode : BitVec 3) (records : List Record) (s : State) : State :=
  s.setTst { s.tst with mode := mode, records := records }

/-- 4094 slots of records. -/
def fullStore : List Record := [0, 0] :: List.replicate 1023 [0, 0, 0, 0]

/-- Every channel with an open filter, W0 enabled. -/
def watching : State :=
  State.reset.setMu ⟨State.reset.mu.channels.set 0
    { Channel.reset with enable := true, windowHigh := 0xFFFFFFFFFF, lengthMin := 1, lengthMax := 16 }⟩

/-- ARMED in S0: exit 0 counts W0 and XT to 1 and takes these actions to S1; exit 1 counts AN to 3; the dwell limit
is 5 and its target STOP. -/
def armedWith (actions : BitVec 7) : State :=
  State.reset.setTsq { State.reset.tsq with
    state := .armed
    stages := State.reset.tsq.stages.set 0 ⟨⟨0x101, 1, 1, actions⟩, ⟨0x200, 3, 4, 0⟩, 5, 4, 0x04⟩ }

/-- A frame open, with what it has received. -/
def withFrame (st : FrameState) (received : List Byte) (s : State) : State :=
  (s.setPins { s.pins with cs := true }).setMgp
    { Mgp.idle .ok with frameState := st, received := received, bytePos := BitVec.ofNat 16 received.length }

/-- A condition on an optional item that is some. -/
theorem of_some {α : Type} {x : α} {p : α → Prop} (h : p x) : ∀ t, some x = some t → p t := by
  intro t e; cases e; exact h

/-- A condition on an optional item that is none. -/
theorem of_none {α : Type} {p : α → Prop} : ∀ t, (none : Option α) = some t → p t := by
  intro t e; cases e

/-! ### Commands that cannot reach the part -/

theorem test_seventeenBeatRequest_refused :
    (Instr.upstreamRequestTake { writeReq with beats := List.replicate 17 ⟨0, 0⟩ }).wf = false := by decide +kernel
theorem test_seventeenBeatResponse_refused :
    (Instr.downstreamResponseTake ⟨1, .okay, List.replicate 17 0⟩).wf = false := by decide +kernel
theorem test_namedCode_notBadCommand : (Instr.badCommand 0x31).wf = false := by decide +kernel
theorem test_sixteenBeats_accepted :
    (Instr.upstreamRequestTake { writeReq with beats := List.replicate 16 ⟨0, 0⟩ }).wf = true
      ∧ (Instr.downstreamResponseTake ⟨1, .okay, List.replicate 16 0⟩).wf = true
      ∧ (Instr.badCommand 0x20).wf = true := by decide +kernel
theorem test_noWordSpellsACommand : decodeTableWord 16 0x31 = none := by decide

/-! ### Each command on a small state -/

theorem test_upstreamRequestTake :
    result (exec (.upstreamRequestTake readReq) State.reset)
      = some (withTxn readReq .holdPoint 0 State.reset) := by decide +kernel
theorem test_upstreamRequestTake_hit :
    result (exec (.upstreamRequestTake readReq) watching)
      = some (withTxn readReq .verdictWait 1 ((recordHits 1 watching).setTsq
          { State.reset.tsq with rqpReport := some 1 })) := by decide +kernel
theorem test_takeReport_fence :
    (result (exec .takeReport (withTxn readReq .verdictWait 1 ((armedWith 0x08).setTsq
      { (armedWith 0x08).tsq with rqpReport := some 1 })))).map (fun t => (t.rmg.queue, t.rqp.inProcess, t.tsq.stage))
      = some ([⟨0x42, 3, .fenced, []⟩], none, 1) := by decide +kernel
theorem test_takeReport_forward :
    (result (exec .takeReport (withTxn readReq .verdictWait 1 ((armedWith 0).setTsq
      { (armedWith 0).tsq with rqpReport := some 1 })))).map (fun t => (t.rmg.queue, t.rqp.inProcess, t.tsq.stage))
      = some ([], some ⟨readReq, .holdPoint, 1, false⟩, 1) := by decide +kernel
theorem test_holdPointPass :
    result (exec .holdPointPass (withTxn readReq .holdPoint 0 State.reset))
      = some (setTxn (some ⟨readReq, .offered 0, 0, true⟩) State.reset) := by decide +kernel
theorem test_downstreamRequestTake :
    result (exec .downstreamRequestTake (withTxn readReq (.offered 0) 0 State.reset))
      = some (withEntry { liveEntry with age := 0 } State.reset) := by decide +kernel
theorem test_downstreamResponseTake :
    result (exec (.downstreamResponseTake ⟨1, .okay, [1, 2, 3, 4]⟩) (withEntry liveEntry State.reset))
      = some (withRsp (.offered answer) (withEntry liveEntry State.reset)) := by decide +kernel
theorem test_downstreamResponseTake_late :
    (result (exec (.downstreamResponseTake ⟨1, .okay, []⟩)
      (withEntry { liveEntry with state := .orphaned } State.reset))).map
        (fun t => ((entry t 0).state, t.ans.flags, t.ans.first))
      = some (.free, 0b001000, some ⟨⟨.lateResponse, 0, 3, 0x42, 0x1000⟩, 0⟩) := by decide +kernel
theorem test_rmgBeginOffer :
    (result (exec .rmgBeginOffer (withRsp (.offered answer) (withEntry liveEntry State.reset)))).map (·.rmg.offer)
      = some (some .rsp) := by decide +kernel
theorem test_upstreamResponseTake :
    result (exec .upstreamResponseTake ((withRsp (.offered answer) (withEntry liveEntry State.reset)).setRmg
      { State.reset.rmg with offer := some .rsp }))
      = some ((withEntry liveEntry.freed State.reset).setRmg { State.reset.rmg with pointer := .queue }) := by
  decide +kernel
theorem test_takeXtInput :
    (result (exec .takeXtInput ((armedWith 0x51).setTsq { (armedWith 0x51).tsq with xt := true }))).map
        (fun t => (t.tsq.stage, t.tcu.capturing, t.alc.pending, t.pulse)) = some (1, true, 1, .driving 0) := by
  decide +kernel
theorem test_takeAnInput :
    (result (exec .takeAnInput ((armedWith 0).setTsq { (armedWith 0).tsq with an := true }))).map
        (fun t => (t.tsq.stage, t.tsq.counter1, t.tsq.an)) = some (0, 1, false) := by decide +kernel
theorem test_dwellExpiry :
    (result (exec .dwellExpiry ((armedWith 0).setTsq { (armedWith 0).tsq with dwellExpiry := true, dwellAge := 5 }))).map
        (fun t => (t.tsq.state, t.tsq.stage, t.tsq.dwellAge, t.alc.pending)) = some (.fired, 0, 0, 0x20) := by
  decide +kernel
theorem test_takeArm :
    (result (exec .takeArm ((withStore 2 [] State.reset).setTsq { State.reset.tsq with command := some .arm }))).map
        (fun t => (t.tsq.state, t.tst.records)) = some (.armed, [syncRecord 0, stageRecord 7 0 .arm 0 0]) := by
  decide +kernel
theorem test_takeDisarm :
    (result (exec .takeDisarm ((armedWith 0).setTsq { (armedWith 0).tsq with command := some .disarm }))).map
        (fun t => (t.tsq.state, t.tsq.command)) = some (.idle, none) := by decide +kernel
theorem test_xtrigInEdge : (result (exec .xtrigInEdge State.reset)).map (·.tsq.xt) = some true := by decide +kernel
theorem test_tick :
    (result (exec .tick (withEntry liveEntry State.reset))).map (fun t => ((entry t 0).age, t.tbs))
      = some (5, ⟨1000, 0, 1⟩) := by decide +kernel
theorem test_expiryUnderReport :
    (result (exec (.expiryUnderReport 0) ((withEntry liveEntry State.reset).setOtt
      { (withEntry liveEntry State.reset).ott with timeout := 5 }))).map
        (fun t => ((entry t 0).expired, (entry t 0).state, t.ans.counts[5])) = some (true, .live, 1) := by
  decide +kernel
theorem test_expiryUnderAbandon :
    (result (exec (.expiryUnderAbandon 0) ((withEntry liveEntry State.reset).setOtt
      { (withEntry liveEntry State.reset).ott with timeout := 5, policy := .abandon }))).map
        (fun t => ((entry t 0).state, t.rmg.queue)) = some (.orphaned, [⟨0x42, 3, .timeout, []⟩]) := by decide +kernel
theorem test_holdLimitExpiry :
    (result (exec .holdLimitExpiry (State.reset.setRqp ⟨true, 6, 7, none⟩))).map (fun t => (t.rqp, t.alc.pending))
      = some (⟨false, 7, 7, none⟩, 0x10) := by decide +kernel
theorem test_dwellLimitReached :
    (result (exec .dwellLimitReached ((armedWith 0).setTsq { (armedWith 0).tsq with dwellAge := 4 }))).map
        (fun t => (t.tsq.dwellAge, t.tsq.dwellExpiry)) = some (5, true) := by decide +kernel
theorem test_pulseEnd :
    (result (exec .pulseEnd (State.reset.setPulse (.driving 1)))).map (·.pulse) = some .low := by decide +kernel
theorem test_egressRecordBegin :
    (result (exec .egressRecordBegin (withStore 4 [[7, 8]] State.reset))).map (·.tst.tx) = some (some ⟨[7, 8], 0, 1⟩) := by
  decide +kernel
theorem test_egressSlotFreed :
    (result (exec .egressSlotFreed (State.reset.setTst { State.reset.tst with tx := some ⟨[7, 8], 0, 3⟩ }))).map
        (fun t => (t.tst.tx, fill t)) = some (some ⟨[7, 8], 1, 0⟩, 1) := by decide +kernel
theorem test_egressTransfer :
    (result (exec .egressTransfer (State.reset.setTst { State.reset.tst with tx := some ⟨[7, 8], 1, 7⟩ }))).map
        (·.tst.tx) = some none := by decide +kernel
theorem test_linkReset :
    (result (exec .linkReset (withStore 1 [] (withEntry liveEntry State.reset)))).map
        (fun t => ((entry t 0).state, t.tst.records, t.pins.lrst))
      = some (.free, [syncRecord 0, linkResetRecord 1 0 0], true) := by decide +kernel
theorem test_linkResetEnd :
    result (exec .linkResetEnd (State.reset.setPins ⟨false, true, false⟩)) = some State.reset := by decide +kernel
theorem test_powerOnReset :
    result (exec .powerOnReset (withEntry liveEntry State.reset))
      = some (State.reset.setPins ⟨true, false, false⟩) := by decide +kernel
theorem test_powerOnResetEnd :
    result (exec .powerOnResetEnd (State.reset.setPins ⟨true, false, false⟩)) = some State.reset := by decide +kernel
theorem test_aborted :
    (result (exec .aborted (withFrame .header [0x21] State.reset))).map (fun t => (t.mgp, t.pins.cs))
      = some (Mgp.idle .aborted, false) := by decide +kernel
theorem test_badCommand :
    result (exec (.badCommand 0x20) State.reset) = some (State.reset.setMgp (Mgp.idle .badCommand)) := by decide +kernel
theorem test_readReg :
    (result (exec (.readReg 0x093 1) State.reset)).map (fun t => (t.mgp.frameStatus, t.mgp.snapshot))
      = some (some .ok, some [0, 0, 0x10, 0]) := by decide +kernel
theorem test_readReg_badIndex :
    (result (exec (.readReg 0x093 2) State.reset)).map (fun t => (t.mgp.frameStatus, t.mgp.snapshot))
      = some (some .badIndex, none) := by decide +kernel
theorem test_readEntry :
    (result (exec (.readEntry 0) (withEntry liveEntry State.reset))).map (·.mgp.snapshot)
      = some (some [0x42, 0x03, 0x30, 0x05, 0, 0, 0, 9, 0, 0, 0x10, 0, 0, 0, 0, 0, 0, 0, 0, 4]) := by decide +kernel
theorem test_traceRead :
    (result (exec (.traceRead 2) (withStore 1 [[7], [8, 9]] State.reset))).map
        (fun t => (t.tst.snapshot, t.mgp.snapshot))
      = some (some 1, some [0, 1, 0, 0, 0, 0, 0, 0, 0, 7]) := by decide +kernel
theorem test_traceReadEnd :
    (result (exec (.traceReadEnd 10) ((withFrame .dataOut [0x24, 0, 2] (withStore 1 [[7], [8, 9]] State.reset)).setTst
      ⟨1, [[7], [8, 9]], none, 0, false, 4096, some 1⟩))).map (·.tst.records)
      = some [[7], [8, 9]] := by decide +kernel
theorem test_channelRecordWrite :
    (result (exec (.channelRecordWrite 0x01C 1 [0x1F]) State.reset)).map (fun t => t.mu.channels[1])
      = some { Channel.reset with enable := true, side := .response, kindFilter := 3, outside := true } := by
  decide +kernel
theorem test_channelRecordWrite_locked :
    result (exec (.channelRecordWrite 0x01C 1 [0x1F]) (armedWith 0))
      = some ((armedWith 0).setMgp (Mgp.idle .locked)) := by decide +kernel
theorem test_stageRecordWrite :
    (result (exec (.stageRecordWrite 0x08F 1 [0x7F04]) State.reset)).map (fun t => t.tsq.stages[3])
      = some { Stage.reset with dwellTarget := 4, dwellActions := 0x7F } := by decide +kernel
theorem test_timeoutWrite :
    (result (exec (.timeoutWrite 0 1 [0x1012C]) State.reset)).map (fun t => (t.ott.timeout, t.ott.policy))
      = some (300, .abandon) := by decide +kernel
theorem test_holdLimitWrite :
    (result (exec (.holdLimitWrite 1 1 [0x10007]) State.reset)).map (·.rqp.holdLimit) = some 7 := by decide +kernel
theorem test_divisorWrite :
    (result (exec (.divisorWrite 2 1 [8]) (State.reset.setTbs ⟨1000, 7, 5⟩))).map (·.tbs) = some ⟨8, 0, 5⟩ := by
  decide +kernel
theorem test_modeWrite :
    (result (exec (.modeWrite 0x090 1 [3]) (withStore 1 [[7]] State.reset))).map (fun t => (modeOf t, fill t))
      = some (.streamStall, 0) := by decide +kernel
theorem test_captureConfigurationWrite :
    (result (exec (.captureConfigurationWrite 0x091 2 [0x181, 1]) State.reset)).map
        (fun t => (t.tcu.captureSet, t.tcu.byChannels, t.tcu.firstBeat)) = some (0x81, true, true) := by decide +kernel
theorem test_thresholdWrite :
    (result (exec (.thresholdWrite 0x093 1 [0x1FFF]) State.reset)).map
        (fun t => (t.tst.threshold, effectiveThreshold t.tst.threshold)) = some (0x1FFF, 4096) := by decide +kernel
theorem test_enableWrite :
    (result (exec (.enableWrite 0x0A0 1 [0xFF]) State.reset)).map (·.alc.enable) = some 0x3F := by decide +kernel
theorem test_maskWrite :
    (result (exec (.maskWrite 0x0B0 1 [0x3801]) State.reset)).map (fun t => (t.ans.anMask, t.ans.alertMask))
      = some (1, 0x38) := by decide +kernel
theorem test_arm :
    result (exec .arm State.reset) = some (State.reset.setTsq { State.reset.tsq with command := some .arm }) := by
  decide +kernel
theorem test_disarm :
    result (exec .disarm State.reset) = some (State.reset.setTsq { State.reset.tsq with command := some .disarm }) := by
  decide +kernel
theorem test_releaseHold :
    (result (exec .releaseHold (State.reset.setRqp ⟨true, 6, 7, none⟩))).map (·.rqp) = some ⟨false, 6, 7, none⟩ := by
  decide +kernel
theorem test_purgeOrphans :
    (result (exec .purgeOrphans (withEntry { liveEntry with state := .orphaned } State.reset))).map
        (fun t => (entry t 0, t.ott.purgeCount)) = some ({ liveEntry with state := .free }, 1) := by decide +kernel
theorem test_startCapture : (result (exec .startCapture State.reset)).map (·.tcu.capturing) = some true := by
  decide +kernel
theorem test_stopCapture :
    result (exec .stopCapture (setCapturing true State.reset)) = some State.reset := by decide +kernel
theorem test_mark :
    (result (exec (.mark 0xABCD) (withStore 4 [] State.reset))).map (·.tst.records)
      = some [syncRecord 0, markRecord 0xABCD 0] := by decide +kernel
theorem test_ackAlert :
    (result (exec (.ackAlert 0xC1) (State.reset.setAlc ⟨0x3F, 0⟩))).map (·.alc.pending) = some 0x3E := by decide +kernel
theorem test_ackAnomaly :
    (result (exec .ackAnomaly (recordAnomaly (unsolicitedAnomaly 1) State.reset))).map (·.ans)
      = some State.reset.ans := by decide +kernel
theorem test_clearMatch :
    (result (exec .clearMatch (recordHits 0xFF watching))).map (·.mu) = some watching.mu := by decide +kernel
theorem test_clearWatch :
    (result (exec .clearWatch (withStore 1 [[7]] (armedWith 0)))).map (fun t => (t.tsq.state, t.tst.records, modeOf t))
      = some (.idle, [], .ring) := by decide +kernel
theorem test_refclkRisingEdge :
    (result (exec .refclkRisingEdge (State.reset.setTbs ⟨1000, 999, 5⟩))).map (·.tbs) = some ⟨1000, 0, 6⟩ := by
  decide +kernel
theorem test_frameBegin :
    result (exec .frameBegin State.reset) = some (withFrame .command [] State.reset) := by decide +kernel
theorem test_sclkRisingEdge :
    (result (exec (.sclkRisingEdge true) (withFrame .command [] State.reset))).map
        (fun t => (t.mgp.bitPos, t.mgp.shift)) = some (1, 1) := by decide +kernel
theorem test_readFrameEnd :
    (result (exec .readFrameEnd ((withFrame .drain [0x23, 64] State.reset).setMgp
      { Mgp.idle .ok with frameState := .drain, received := [0x23, 64], frameStatus := some .badIndex }))).map (·.mgp)
      = some (Mgp.idle .badIndex) := by decide +kernel

/-! ### Records and conditions -/

/-- The records of worked sequence 11.1, written out from R111: SYNC, STAGE ARM, REQUEST READ FULL, RESPONSE, STAGE exit0
with ALERT, FENCE and PULSE, RESPONSE FENCED. -/
theorem test_recordLayouts :
    syncRecord 0x00021000 = [0xA100000021000000]
    ∧ stageRecord 7 0 .arm 0 0x00021000 = [0x61000E1800000000]
    ∧ requestFull { readReq with tag := 0x22, context := 0, addr := 0x0040000100, lenM1 := 0 } false false 1 0x00021011
        = [0x2101101844040000, 0x0040000100000000]
    ∧ responseRecord .okay 3 0x22 1 9 (some 7) 0x0002101A = [0x5101A11910100090, 7, 0]
    ∧ stageRecord 1 4 .exit0 0x49 0x00021050 = [0x6105030490000000]
    ∧ responseRecord .fenced 7 5 127 0 none 0x00021050 = [0x510504382FF00000] := by decide +kernel
/-- 11.2: the DELTA of 0x1000 / 16 = 256, and the ANOMALY record of the TIMEOUT. -/
theorem test_deltaAndAnomalyLayouts :
    requestDelta { readReq with tag := 0x40, initiator := 2 } false 0
        (BitVec.ofInt 18 (addressDelta 0x0080002000 0x0080001000)) 0x00070100 = [0x1010031080000100]
    ∧ anomalyRecord ⟨.timeout, 0, 2, 0x40, 0x0080002000⟩ 0x0007022C = [0x7022CA0048000000, 0x0080002000000000]
    ∧ markRecord 0xFFFFFFFF 0 = [0x90000FFFFFFFF000] ∧ lossRecord 3 4 = [0x8000400030000000]
    ∧ linkResetRecord 64 1 0 = [0xB000080040000000] := by decide +kernel
/-- The delta fits from −131072 to 131071. -/
theorem test_deltaRange :
    deltaFits (-131072) = true ∧ deltaFits 131071 = true ∧ deltaFits (-131073) = false ∧ deltaFits 131072 = false := by
  decide +kernel

/-! ### The statements' hypotheses can be met

One theorem per statement that has hypotheses, one conjunct per clause, at the boundary where there is one. -/

theorem witness_StepRunsTheFrontCommand :
    (State.reset.setPending [.tick, .arm]).pending = [.tick, .arm] := by decide +kernel
theorem witness_NothingStopsThePart : State.reset.pending = [] := by decide +kernel
theorem witness_LinkResetDiscardsTheTraffic :
    LinksUp (withStore 1 fullStore State.reset) ∧ modeOf (withStore 1 fullStore State.reset) ≠ .off
      ∧ modeOf (withStore 1 fullStore State.reset) ≠ .stop ∧ (withStore 1 fullStore State.reset).tcu.lossCount = 0
      ∧ fill (withStore 1 fullStore State.reset) + 2 = Config.storeSlots
      ∧ modeOf (withStore 2 [] State.reset) = .stop ∧ (withStore 2 [] State.reset).tst.stopped = false := by
  unfold LinksUp; decide +kernel
theorem witness_ARequestWithoutHitsGoesToTheHoldPoint :
    (Accepting nearlyFull ∧ Legal pageReq ∧ PairFree pageReq nearlyFull
      ∧ ∀ n, ¬ Matches nearlyFull (watchedRequest pageReq) n)
    ∧ Legal writeReq := by
  unfold Accepting LinksUp Legal PairFree Matches; decide +kernel
theorem witness_ARequestWithHitsIsReported :
    Accepting watching ∧ Legal readReq ∧ PairFree readReq watching
      ∧ ∃ n, Matches watching (watchedRequest readReq) n := by
  unfold Accepting LinksUp Legal PairFree Matches; decide +kernel
theorem witness_IllegalRequestsAreAnsweredProtocol :
    (Accepting State.reset ∧ ¬ Legal crossReq)
    ∧ (Accepting nearlyFull ∧ Legal { readReq with tag := 62 } ∧ LivePairsDistinct nearlyFull
        ∧ (entry nearlyFull 62).state = .live ∧ (entry nearlyFull 62).initiator = 3
        ∧ (entry nearlyFull 62).tag = 62) := by
  unfold Accepting LinksUp Legal LivePairsDistinct; decide +kernel
theorem witness_ARequestRefusedForNowLeavesNoTrace :
    ¬ Accepting (State.reset.setRqp ⟨true, 0, 0, none⟩)
      ∧ ¬ Accepting (State.reset.setRmg ⟨List.replicate 8 answer, .rsp, none⟩)
      ∧ ¬ Accepting (State.reset.setPins ⟨false, true, false⟩) := by
  unfold Accepting LinksUp; decide +kernel
theorem witness_TheHoldPointIsPassedIntoAnOffer :
    (LinksUp (withTxn readReq .holdPoint 0 nearlyFull) ∧ LowestFree (withTxn readReq .holdPoint 0 nearlyFull) 63
      ∧ modeOf (withTxn readReq .holdPoint 0 nearlyFull) = .off
      ∧ (withTxn readReq .holdPoint 0 nearlyFull).rqp.held = false
      ∧ (withTxn readReq .holdPoint 0 (State.reset.setRqp ⟨true, 0, 0, none⟩)).rqp.held = true
      ∧ LowestFree (withTxn readReq .holdPoint 0 (State.reset.setRqp ⟨true, 0, 0, none⟩)) 0)
    ∧ (LinksUp (setTxn (some ⟨readReq, .holdPoint, 0, true⟩) State.reset)
      ∧ LowestFree (setTxn (some ⟨readReq, .holdPoint, 0, true⟩) State.reset) 0
      ∧ (setTxn (some ⟨readReq, .holdPoint, 0, true⟩) State.reset).rqp.held = false
      ∧ (setTxn (some ⟨readReq, .holdPoint, 0, true⟩) State.reset).tcu.capture = none
      ∧ (setTxn (some ⟨readReq, .holdPoint, 0, true⟩) (State.reset.setRqp ⟨true, 0, 0, none⟩)).rqp.held = true) := by
  unfold LinksUp LowestFree; decide +kernel
/-- A request at the hold point in STREAM_STALL, capturing with FIRST_BEAT, and so many slots filled. -/
def claiming (filled : Nat) : State :=
  withTxn readReq .holdPoint 0 (withStore 3 [List.replicate filled 0]
    (State.reset.setTcu { State.reset.tcu with capturing := true, firstBeat := true }))

theorem witness_ACapturedRequestClaimsRoom :
    LinksUp (claiming 4089) ∧ (claiming 4089).rqp.inProcess = some ⟨readReq, .holdPoint, 0, false⟩
      ∧ (claiming 4089).rqp.held = false ∧ LowestFree (claiming 4089) 0 ∧ modeOf (claiming 4089) = .streamStall
      ∧ (claiming 4089).tcu.capturing = true ∧ (claiming 4089).tcu.byChannels = false
      ∧ 7 + fill (claiming 4089) + reserved (claiming 4089) = Config.storeSlots
      ∧ LinksUp (claiming 4090) ∧ LowestFree (claiming 4090) 0 ∧ modeOf (claiming 4090) = .streamStall
      ∧ 7 + fill (claiming 4090) + reserved (claiming 4090) = Config.storeSlots + 1 := by
  unfold LinksUp LowestFree; decide +kernel
theorem witness_ACapturedRequestClaimsRoom_plainModes :
    ∀ mode ∈ [(1 : BitVec 3), 2, 4], LinksUp (withStore mode [] (claiming 0))
      ∧ (withStore mode [] (claiming 0)).rqp.inProcess = some ⟨readReq, .holdPoint, 0, false⟩
      ∧ (withStore mode [] (claiming 0)).rqp.held = false ∧ LowestFree (withStore mode [] (claiming 0)) 0
      ∧ modeOf (withStore mode [] (claiming 0)) ≠ .streamStall ∧ Captured 0 (withStore mode [] (claiming 0)) := by
  unfold LinksUp LowestFree Captured; decide +kernel
theorem witness_TheDownstreamTakeAllocates :
    LinksUp (withTxn readReq (.offered 63) 0 nearlyFull)
      ∧ (withTxn readReq (.offered 63) 0 nearlyFull).rqp.inProcess = some ⟨readReq, .offered 63, 0, false⟩
      ∧ (withTxn readReq (.offered 63) 0 nearlyFull).tcu.capture = none
      ∧ (withTxn readReq (.offered 63) 0 nearlyFull).ott.policy = .report := by
  unfold LinksUp; decide +kernel

/-- The request offered for slot 0 with its claim of 7 granted. -/
def granted (filled : Nat) : State :=
  setCapture (some ⟨false, 3, 7, true⟩) (withTxn readReq (.offered 0) 0 (claiming filled))

theorem witness_AGrantedClaimHoldsTheRequestRecord :
    LinksUp (granted 4089) ∧ (granted 4089).ott.policy = .report
      ∧ (granted 4089).rqp.inProcess = some ⟨readReq, .offered 0, 0, false⟩
      ∧ (entry (granted 4089) 0).reservation = 0 ∧ modeOf (granted 4089) = .streamStall
      ∧ (granted 4089).tcu.capture = some ⟨false, 3, 7, true⟩ ∧ (7 = 2 + 2 + 3)
      ∧ fill (granted 4089) + reserved (granted 4089) + 7 = Config.storeSlots := by
  unfold LinksUp; decide +kernel

/-- The request offered for slot 0, captured in a mode without claims. -/
def offeredIn (mode : BitVec 3) (filled : Nat) (stopped : Bool) : State :=
  setCapture (some ⟨false, 0, 0, false⟩) ((withTxn readReq (.offered 0) 0 State.reset).setTst
    { State.reset.tst with mode := mode, records := [List.replicate filled 0], stopped := stopped })

/-- The REQUEST record of `offeredIn`. -/
def offeredRecord (mode : BitVec 3) (filled : Nat) (stopped : Bool) : Record :=
  requestRecord readReq false 0 (offeredIn mode filled stopped)

theorem witness_AGrantedClaimHoldsTheRequestRecord_plainModes :
    (∀ mode ∈ [(1 : BitVec 3), 2, 4], LinksUp (offeredIn mode 4093 false)
      ∧ (offeredIn mode 4093 false).ott.policy = .report
      ∧ (offeredIn mode 4093 false).rqp.inProcess = some ⟨readReq, .offered 0, 0, false⟩
      ∧ (entry (offeredIn mode 4093 false) 0).reservation = 0 ∧ modeOf (offeredIn mode 4093 false) ≠ .streamStall
      ∧ (offeredIn mode 4093 false).tcu.capture = some ⟨false, 0, 0, false⟩
      ∧ FitsAsItIs (offeredIn mode 4093 false)
          (composeGroup (offeredRecord mode 4093 false) (offeredIn mode 4093 false)).flatten.length)
    ∧ (modeOf (offeredIn 4 4094 false) = .streamDrop
      ∧ Config.storeSlots < (composeGroup (offeredRecord 4 4094 false) (offeredIn 4 4094 false)).flatten.length
          + fill (offeredIn 4 4094 false) + reserved (offeredIn 4 4094 false))
    ∧ (modeOf (offeredIn 2 0 true) = .stop ∧ (offeredIn 2 0 true).tst.stopped = true)
    ∧ (modeOf (offeredIn 2 4094 false) = .stop
      ∧ Config.storeSlots < (composeGroup (offeredRecord 2 4094 false) (offeredIn 2 4094 false)).flatten.length
          + fill (offeredIn 2 4094 false) + reserved (offeredIn 2 4094 false)) := by
  unfold LinksUp FitsAsItIs; decide +kernel
/-- A request in ROOM_WAIT for a claim of 7, one slot of the store too many filled, the last of a record in
transmission among them. -/
def waitingForRoom : State :=
  setCapture (some ⟨false, 3, 7, false⟩) (withTxn readReq .roomWait 0
    (State.reset.setTst { State.reset.tst with mode := 3, records := [List.replicate 4089 0], tx := some ⟨[7, 8], 1, 7⟩ }))

/-- Slot 0 holds the entry, and W0 watches responses. -/
def watchingResponses : State :=
  withEntry liveEntry (State.reset.setMu ⟨State.reset.mu.channels.set 0
    { Channel.reset with
      enable := true, side := .response, windowHigh := 0xFFFFFFFFFF, lengthMin := 1, lengthMax := 16 }⟩)

/-- An OKAY response with four beats to slot 0. -/
def okayResp : Response := ⟨1, .okay, [1, 2, 3, 4]⟩

theorem witness_AMatchedResponseIsOfferedOrReported :
    (MatchedAt 0 okayResp (withEntry liveEntry State.reset)
      ∧ (entry (withEntry liveEntry State.reset) 0).traced = false
      ∧ okayResp.beats.length = expectedBeats liveEntry.kind liveEntry.lenM1 .okay
      ∧ ∀ k, ¬ Matches (withEntry liveEntry State.reset) (watchedResponse liveEntry .okay okayResp.beats) k)
    ∧ (MatchedAt 0 okayResp watchingResponses ∧ (entry watchingResponses 0).traced = false
      ∧ ∃ k, Matches watchingResponses (watchedResponse liveEntry .okay okayResp.beats) k) := by
  unfold MatchedAt LinksUp Matches; decide +kernel
/-- The entry, traced with a reservation. -/
def tracedEntry : Entry := { liveEntry with traced := true, reservation := 1 }

/-- Slot 0 holds the traced entry, the store is in a mode and has so many slots filled. -/
def tracing (mode : BitVec 3) (filled : Nat) : State :=
  withStore mode [List.replicate filled 0] (withEntry tracedEntry State.reset)

/-- The RESPONSE record of `okayResp` there. -/
def tracingRecord (mode : BitVec 3) (filled : Nat) : Record :=
  entryRecord .okay (recordedBeat 0 .okay okayResp.beats (tracing mode filled)) 0 (tracing mode filled)

/-- The clauses of a traced entry: STREAM_STALL with room and without, another mode with room, and OFF. -/
theorem witness_AMatchedResponseIsOfferedOrReported_traced :
    (MatchedAt 0 okayResp (tracing 3 4094) ∧ (entry (tracing 3 4094) 0).traced = true
      ∧ ∀ k, ¬ Matches (tracing 3 4094) (watchedResponse tracedEntry .okay okayResp.beats) k)
    ∧ (modeOf (tracing 3 4094) = .streamStall ∧ (tracingRecord 3 4094).length ≤ (entry (tracing 3 4094) 0).reservation
      ∧ ((composeGroup (tracingRecord 3 4094) (tracing 3 4094)).flatten.length - (tracingRecord 3 4094).length)
          + claim (tracing 3 4094) + fill (tracing 3 4094) + reserved (tracing 3 4094) = Config.storeSlots)
    ∧ ((tracingRecord 3 4095).length < (composeGroup (tracingRecord 3 4095) (tracing 3 4095)).flatten.length
      ∧ Config.storeSlots < ((composeGroup (tracingRecord 3 4095) (tracing 3 4095)).flatten.length
          - (tracingRecord 3 4095).length) + claim (tracing 3 4095) + fill (tracing 3 4095) + reserved (tracing 3 4095))
    ∧ (modeOf (tracing 1 0) ≠ .streamStall
      ∧ FitsAsItIs (tracing 1 0) (composeGroup (tracingRecord 1 0) (tracing 1 0)).flatten.length)
    ∧ modeOf (tracing 0 0) = .off := by
  unfold MatchedAt LinksUp Matches FitsAsItIs; decide +kernel
theorem witness_AMalformedResponseGoesOnAsFault :
    MatchedAt 0 ⟨1, .okay, [1, 2, 3]⟩ (withEntry liveEntry State.reset)
      ∧ (entry (withEntry liveEntry State.reset) 0).traced = false
      ∧ [1, 2, 3].length ≠ expectedBeats liveEntry.kind liveEntry.lenM1 .okay
      ∧ ∀ k, ¬ Matches (withEntry liveEntry State.reset) (watchedResponse liveEntry .fault []) k := by
  unfold MatchedAt LinksUp Matches; decide +kernel
theorem witness_AMalformedResponseGoesOnAsFault_tracedAndReported :
    (MatchedAt 0 ⟨1, .okay, [1, 2, 3]⟩ (tracing 3 4092) ∧ (entry (tracing 3 4092) 0).traced = true
      ∧ (∀ k, ¬ Matches (tracing 3 4092) (watchedResponse tracedEntry .fault []) k)
      ∧ FitsAsItIs (tracing 3 4092) (composeGroup (anomalyRecord ⟨.malformedResponse, 0, 3, 0x42, 0x1000⟩ 0)
          (tracing 3 4092)).flatten.length
      ∧ (entryRecord .fault none 0 (tracing 3 4092)).length ≤ (entry (tracing 3 4092) 0).reservation)
    ∧ (MatchedAt 0 ⟨1, .okay, [1, 2, 3]⟩ watchingResponses
      ∧ ∃ k, Matches watchingResponses (watchedResponse liveEntry .fault []) k) := by
  unfold MatchedAt LinksUp Matches FitsAsItIs; decide +kernel
theorem witness_StrayResponsesAreConsumed :
    (LinksUp State.reset ∧ State.reset.rsp.inProcess = none ∧ tagSlot 127 = 63 ∧ (entry State.reset 63).state = .free)
    ∧ (tagSlot 1 = 0 ∧ (entry (withEntry { liveEntry with state := .orphaned } State.reset) 0).state = .orphaned
        ∧ (entry (withEntry { liveEntry with state := .orphaned } State.reset) 0).gen = tagGen 1)
    ∧ (entry (withEntry liveEntry State.reset) 0).gen ≠ tagGen 0 := by
  unfold LinksUp; decide +kernel

/-- RSP offers the response of slot 0, and the queue holds some more. -/
def responding (queued : Nat) (offer : Option Source) : State :=
  (withRsp (.offered answer) (withEntry liveEntry State.reset)).setRmg ⟨List.replicate queued answer, .queue, offer⟩

/-- The STREAM_DROP store, with just the room that an ANOMALY record and a SYNC in front of it take. -/
def roomForAnomaly (s : State) : State := withStore 4 [List.replicate 4093 0] s

/-- An ORPHANED slot 0 beside that store. -/
def orphanAndRoom : State := roomForAnomaly (withEntry { liveEntry with state := .orphaned } State.reset)

/-- Where an ANOMALY record is to be stored, its group fits, with no slot to spare. -/
theorem witness_AnomalyRecorded :
    (Accepting (roomForAnomaly State.reset) ∧ ¬ Legal crossReq
      ∧ FitsAsItIs (roomForAnomaly State.reset) (composeGroup
          (anomalyRecord ⟨.malformedRequest, 127, 3, 0x42, 0x1F10⟩ 0) (roomForAnomaly State.reset)).flatten.length
      ∧ ¬ FitsAsItIs (roomForAnomaly State.reset) 4)
    ∧ (MatchedAt 0 ⟨1, .okay, [1, 2, 3]⟩ (roomForAnomaly (withEntry liveEntry State.reset))
      ∧ FitsAsItIs (roomForAnomaly (withEntry liveEntry State.reset)) 3)
    ∧ (MatchedAt 0 ⟨1, .okay, [1, 2, 3]⟩ (roomForAnomaly watchingResponses)
      ∧ (∃ k, Matches (roomForAnomaly watchingResponses) (watchedResponse liveEntry .fault []) k)
      ∧ FitsAsItIs (roomForAnomaly watchingResponses) 3)
    ∧ ((entry orphanAndRoom 0).state = .orphaned ∧ (entry orphanAndRoom 63).state = .free
      ∧ FitsAsItIs orphanAndRoom 3) := by
  unfold Accepting LinksUp Legal MatchedAt Matches FitsAsItIs LinksUp; decide +kernel

theorem witness_RmgOffersAsThePointerNames :
    LinksUp (responding 8 none) ∧ rspAnswer (responding 8 none) ≠ none ∧ (responding 8 none).rmg.queue ≠ []
      ∧ (responding 0 none).rmg.queue = [] ∧ rspAnswer (responding 0 none) ≠ none
      ∧ (responding 0 (some .rsp)).rmg.offer ≠ none ∧ rspAnswer State.reset = none ∧ State.reset.rmg.queue = []
      ∧ rspAnswer (State.reset.setRmg ⟨[answer], .rsp, none⟩) = none := by
  unfold LinksUp; decide +kernel

/-- Slot 63 is due under ABANDON, and the full queue is offered. -/
def dueAt63 : State :=
  ((setEntry 63 { liveEntry with age := 5 } State.reset).setOtt
    { (setEntry 63 { liveEntry with age := 5 } State.reset).ott with timeout := 5, policy := .abandon }).setRmg
      ⟨List.replicate 8 answer, .rsp, some .queue⟩

theorem dueAt63_due : Due dueAt63 63 := ⟨by decide +kernel, of_none, by decide +kernel, by decide +kernel⟩

theorem dueAt63_lowest : ∀ m : Fin 64, m < 63 → ¬ Due dueAt63 m := by
  have free : ∀ m : Fin 64, m < 63 → (entry dueAt63 m).state ≠ .live := by decide +kernel
  exact fun m h d => free m h d.1

/-- Slot 63 is due under ABANDON, the queue holds seven, and an offered request stands for slot 0. -/
def takenWhileDue : State := (withTxn readReq (.offered 0) 0 dueAt63).setRmg ⟨List.replicate 7 answer, .rsp, none⟩

theorem takenWhileDue_due : Due takenWhileDue 63 := dueAt63_due
theorem witness_TheDownstreamTakeAllocates_abandon :
    LinksUp takenWhileDue ∧ takenWhileDue.rqp.inProcess = some ⟨readReq, .offered 0, 0, false⟩
      ∧ takenWhileDue.tcu.capture = none ∧ takenWhileDue.ott.policy = .abandon ∧ (63 : Fin 64) ≠ 0
      ∧ Due takenWhileDue 63 ∧ (∀ m : Fin 64, m < 63 → m ≠ 0 → ¬ Due takenWhileDue m)
      ∧ takenWhileDue.rmg.queue.length < Config.queuePositions :=
  ⟨by unfold LinksUp; decide +kernel, rfl, rfl, by decide +kernel, by decide, takenWhileDue_due,
   fun m h _ => dueAt63_lowest m h, by decide +kernel⟩
theorem witness_TheUpstreamTakeHasItsEffects :
    (LinksUp (responding 0 (some .rsp)) ∧ (responding 0 (some .rsp)).rmg.offer = some .rsp
      ∧ (responding 0 (some .rsp)).rsp.inProcess = some ⟨0, .offered answer, .okay, [1, 2, 3, 4]⟩
      ∧ ∀ x, (responding 0 (some .rsp)).rqp.inProcess = some x → x.phase ≠ .roomWait)
    ∧ ((responding 1 (some .queue)).rmg.queue = [answer] ∧ (responding 1 (some .queue)).ott.policy = .report)
    ∧ (LinksUp dueAt63 ∧ dueAt63.rmg.offer = some .queue
      ∧ dueAt63.rmg.queue = answer :: List.replicate 7 answer ∧ dueAt63.ott.policy = .abandon ∧ Due dueAt63 63
      ∧ (∀ m : Fin 64, m < 63 → ¬ Due dueAt63 m)
      ∧ (List.replicate 7 answer).length + reservedPositions dueAt63 < Config.queuePositions
      ∧ ¬ RequestGoesFirst dueAt63) :=
  ⟨⟨by unfold LinksUp; decide +kernel, by decide +kernel, by decide +kernel, of_none⟩,
   by decide +kernel,
   by unfold LinksUp; decide +kernel, by decide +kernel, by decide +kernel, by decide +kernel, dueAt63_due,
   dueAt63_lowest, by decide +kernel, fun ⟨⟨_, _, h⟩, _⟩ => nomatch (show [] = _ from h)⟩

/-- RSP's response is offered upstream, and a request waits for the slots that it frees. -/
def retiringForRoom : State :=
  setCapture (some ⟨false, 3, 7, false⟩) (withTxn readReq .roomWait 0
    ((responding 0 (some .rsp)).setTst { State.reset.tst with mode := 3, records := [List.replicate 4089 0] }))

theorem witness_TheUpstreamTakeHasItsEffects_roomWait :
    LinksUp retiringForRoom ∧ retiringForRoom.rmg.offer = some .rsp
      ∧ retiringForRoom.rsp.inProcess = some ⟨0, .offered answer, .okay, [1, 2, 3, 4]⟩
      ∧ retiringForRoom.rqp.inProcess = some ⟨readReq, .roomWait, 0, false⟩ ∧ retiringForRoom.rqp.held = false
      ∧ retiringForRoom.tcu.capture = some ⟨false, 3, 7, false⟩
      ∧ 7 + fill retiringForRoom + (reserved retiringForRoom - (entry retiringForRoom 0).reservation) = Config.storeSlots
      ∧ (0 : Fin 64) = 0 ∧ ∀ m : Fin 64, m < 0 → (entry retiringForRoom m).state ≠ .free ∧ m ≠ 0 := by
  unfold LinksUp; decide +kernel

/-- `dueAt63` with a request in front of the queue. -/
def contested : State := dueAt63.setPending [.upstreamRequestTake readReq]

/-- Which way the free value points is not known: what it does not decide holds in `contested`. -/
theorem witness_TheUpstreamTakeHasItsEffects_contested :
    LinksUp contested ∧ contested.rmg.offer = some .queue ∧ contested.ott.policy = .abandon ∧ Due contested 63
      ∧ (List.replicate 7 answer).length + 1 = Config.queuePositions
      ∧ (Config.requestTakesFreedPosition contested.choices = true → RequestGoesFirst contested)
      ∧ (Config.requestTakesFreedPosition contested.choices = false → ¬ RequestGoesFirst contested) :=
  ⟨by unfold LinksUp; decide +kernel, by decide +kernel, by decide +kernel, dueAt63_due, by decide,
   fun h => ⟨⟨_, _, rfl⟩, rfl, rfl, ⟨0, by decide +kernel⟩, h⟩, fun h ⟨_, _, _, _, g⟩ => by rw [h] at g; cases g⟩
/-- `contested` with one position to spare. -/
def contestedSpare : State := contested.setRmg ⟨List.replicate 7 answer, .rsp, some .queue⟩

theorem witness_TheUpstreamTakeHasItsEffects_contestedSpare :
    LinksUp contestedSpare ∧ contestedSpare.rmg.offer = some .queue
      ∧ contestedSpare.rmg.queue = answer :: List.replicate 6 answer ∧ contestedSpare.ott.policy = .abandon
      ∧ Due contestedSpare 63 ∧ (∀ m : Fin 64, m < 63 → ¬ Due contestedSpare m)
      ∧ (List.replicate 6 answer).length + 1 < Config.queuePositions
      ∧ (Config.requestTakesFreedPosition contestedSpare.choices = true → RequestGoesFirst contestedSpare) :=
  ⟨by unfold LinksUp; decide +kernel, by decide +kernel, by decide +kernel, by decide +kernel, dueAt63_due,
   dueAt63_lowest, by decide, fun h => ⟨⟨_, _, rfl⟩, rfl, rfl, ⟨0, by decide +kernel⟩, h⟩⟩

/-- Two inputs wait, and the pointer stands between them: the AN input is next in line, RQP's report last. -/
def twoInputs : Tsq := { (armedWith 0).tsq with rqpReport := some 1, an := true, pointer := .rspReport }

/-- An input that does not wait is not next in line. -/
theorem not_next {s : State} {i : Input} (h : inputPending s.tsq i = false) : ¬ NextInLine s i := by
  rintro ⟨_, _, _, h', _⟩
  rw [h] at h'
  cases h'

theorem witness_InputsWaitForTheArbiter :
    Powered (State.reset.setTsq twoInputs) ∧ NextInLine (State.reset.setTsq twoInputs) .an
      ∧ ¬ NextInLine State.reset .rqpReport ∧ ¬ NextInLine State.reset .rspReport ∧ ¬ NextInLine State.reset .xt
      ∧ ¬ NextInLine State.reset .an ∧ ¬ NextInLine State.reset .dwell ∧ ¬ NextInLine State.reset .command := by
  refine ⟨rfl, ⟨[.rspReport, .xt], [.dwell, .command, .rqpReport], rfl, rfl, by decide +kernel⟩, ?_⟩
  exact ⟨not_next rfl, not_next rfl, not_next rfl, not_next rfl, not_next rfl, not_next rfl⟩

/-- An input that the pointer names is next in line when it waits. -/
theorem next_at_pointer {s : State} (h : inputPending s.tsq s.tsq.pointer = true) : NextInLine s s.tsq.pointer :=
  ⟨[], _, rfl, h, by intro j hj; cases hj⟩

/-- IDLE, with one input waiting at the pointer. -/
def idleWith (t : Tsq) (i : Input) : State := State.reset.setTsq { t with state := .idle, pointer := i }

theorem witness_OutsideArmedInputsAreAnsweredUncounted :
    (Powered (withTxn readReq .verdictWait 1 (idleWith twoInputs .rqpReport))
      ∧ (idleWith twoInputs .rqpReport).tsq.state ≠ .armed
      ∧ NextInLine (withTxn readReq .verdictWait 1 (idleWith twoInputs .rqpReport)) .rqpReport
      ∧ (withTxn readReq .verdictWait 1 (idleWith twoInputs .rqpReport)).rqp.inProcess
          = some ⟨readReq, .verdictWait, 1, false⟩)
    ∧ (NextInLine (withRsp .verdictWait (idleWith { twoInputs with rspReport := some 1 } .rspReport)) .rspReport
      ∧ (entry (withRsp .verdictWait (idleWith { twoInputs with rspReport := some 1 } .rspReport)) 0).traced = false)
    ∧ NextInLine (idleWith { twoInputs with xt := true } .xt) .xt ∧ NextInLine (idleWith twoInputs .an) .an :=
  ⟨⟨rfl, by decide +kernel, next_at_pointer rfl, rfl⟩, ⟨next_at_pointer rfl, by decide +kernel⟩, next_at_pointer rfl,
   next_at_pointer rfl⟩

/-- The response to the traced entry waits for its verdict, its report next in line. -/
def tracedReport (t : Tsq) (filled : Nat) : State :=
  withRsp .verdictWait ((tracing 3 filled).setTsq { t with rspReport := some 1, pointer := .rspReport })

theorem witness_OutsideArmedInputsAreAnsweredUncounted_traced :
    NextInLine (tracedReport State.reset.tsq 0) .rspReport ∧ (tracedReport State.reset.tsq 0).tsq.state ≠ .armed
      ∧ (entry (tracedReport State.reset.tsq 0) 0).traced = true :=
  ⟨next_at_pointer rfl, by decide, by decide +kernel⟩
/-- ARMED as `armedWith`, with one input waiting at the pointer and counter 1 one below its count. -/
def armedAt (actions : BitVec 7) (i : Input) : State :=
  (armedWith actions).setTsq { (armedWith actions).tsq with
    rqpReport := some 1, rspReport := some 1, xt := true, an := true, pointer := i, counter1 := 1 }

theorem witness_InputsAdvanceTheExitCounters :
    (Powered (armedAt 0 .an) ∧ (armedAt 0 .an).tsq.state = .armed ∧ NextInLine (armedAt 0 .an) .an
      ∧ (0 : BitVec 12) = (if (currentStage (armedAt 0 .an)).exit0.sources &&& 0x200 = 0 then 0 else 1)
      ∧ (2 : BitVec 12) = (if (currentStage (armedAt 0 .an)).exit1.sources &&& 0x200 = 0 then 1 else 1 + 1)
      ∧ 0 < max 1 (currentStage (armedAt 0 .an)).exit0.count.toNat
      ∧ 2 < max 1 (currentStage (armedAt 0 .an)).exit1.count.toNat)
    ∧ ((currentStage (armedAt 0 .rqpReport)).exit0.sources &&& (2#8).setWidth 10 = 0
      ∧ NextInLine (withTxn readReq .verdictWait 2 (armedAt 0 .rqpReport)) .rqpReport)
    ∧ ((currentStage (armedAt 0 .rspReport)).exit0.sources &&& (2#8).setWidth 10 = 0
      ∧ NextInLine (withRsp .verdictWait (armedAt 0 .rspReport)) .rspReport)
    ∧ NextInLine (armedAt 0 .xt) .xt :=
  ⟨⟨rfl, rfl, next_at_pointer rfl, by decide +kernel, by decide +kernel, by decide +kernel, by decide +kernel⟩,
   ⟨by decide +kernel, next_at_pointer rfl⟩, ⟨by decide +kernel, next_at_pointer rfl⟩, next_at_pointer rfl⟩
theorem witness_AnExitIsTakenAtItsCount :
    (Powered (armedAt 0x7F .xt) ∧ (armedAt 0x7F .xt).tsq.state = .armed ∧ NextInLine (armedAt 0x7F .xt) .xt
      ∧ ExitReached (currentStage (armedAt 0x7F .xt)).exit0 .exit0 0x100 (armedAt 0x7F .xt))
    ∧ (NextInLine (withTxn readReq .verdictWait 1 (armedAt 0 .rqpReport)) .rqpReport
      ∧ ExitReached (currentStage (armedAt 0 .rqpReport)).exit0 .exit0 ((1#8).setWidth 10) (armedAt 0 .rqpReport)
      ∧ (armedAt 0 .rqpReport).tsq.rqpReport = some 1
      ∧ Action.fence (currentStage (armedAt 0 .rqpReport)).exit0.actions = false)
    ∧ (NextInLine (withRsp .verdictWait (armedAt 0 .rspReport)) .rspReport
      ∧ (armedAt 0 .rspReport).tsq.rspReport = some 1) :=
  ⟨⟨rfl, rfl, next_at_pointer rfl, by unfold ExitReached; decide +kernel⟩,
   ⟨next_at_pointer rfl, by unfold ExitReached; decide +kernel, rfl, by decide +kernel⟩, next_at_pointer rfl, rfl⟩

/-- What a transition's clauses about the request in RQP and its STAGE record ask for. -/
theorem witness_TransitionTaken :
    (withTxn readReq (.offered 0) 0 (armedAt 0x7F .xt)).rqp.inProcess = some ⟨readReq, .offered 0, 0, false⟩
      ∧ (withTxn readReq .holdPoint 0 (armedAt 0x7F .xt)).rqp.inProcess = some ⟨readReq, .holdPoint, 0, false⟩
      ∧ (withTxn readReq .roomWait 0 (armedAt 0x7F .xt)).rqp.inProcess = some ⟨readReq, .roomWait, 0, false⟩
      ∧ Action.hold 0x7F = true ∧ Action.hold 0x04 = false ∧ Action.release 0x04 = true
      ∧ waitingForRoom.rqp.inProcess = some ⟨readReq, .roomWait, 0, false⟩ ∧ LowestFree waitingForRoom 0
      ∧ NoneWaitsForRoom (withStore 2 [List.replicate 4094 0] (armedAt 0x7F .xt))
      ∧ FitsAsItIs (withStore 2 [List.replicate 4094 0] (armedAt 0x7F .xt))
          (composeGroup (stageRecord 0 1 .exit0 0x7F 0) (withStore 2 [List.replicate 4094 0] (armedAt 0x7F .xt))).flatten.length :=
  ⟨rfl, rfl, rfl, by decide, by decide, by decide, rfl, by unfold LowestFree; decide +kernel, of_none,
   by unfold FitsAsItIs; decide +kernel⟩
/-- The stage of `armedWith` with its exits exchanged, and counter 1 at 0. -/
def exchanged : State :=
  (armedAt 0 .xt).setTsq { (armedAt 0 .xt).tsq with
    counter1 := 0
    stages := State.reset.tsq.stages.set 0 ⟨⟨0x200, 3, 4, 0⟩, ⟨0x101, 0, 5, 0x7F⟩, 5, 4, 0x04⟩ }

theorem witness_AnExitIsTakenAtItsCount_exit1 :
    ExitReached (currentStage exchanged).exit1 .exit1 0x100 exchanged
      ∧ ExitReached (currentStage exchanged).exit0 .exit0 0x200 (exchanged.setTsq { exchanged.tsq with counter0 := 2 })
      ∧ NextInLine (exchanged.setTsq { exchanged.tsq with pointer := .an }) .an :=
  ⟨by unfold ExitReached; decide +kernel, by unfold ExitReached; decide +kernel, next_at_pointer rfl⟩
/-- A request of `armedAt`'s report, CAPTURING as said, the STOP store with so many slots filled. -/
def fencing (capturing : Bool) (filled : Nat) : State :=
  setCapturing capturing (withStore 2 [List.replicate filled 0]
    (withTxn readReq .verdictWait 1 (armedAt 0x08 .rqpReport)))

theorem witness_FencedTransactionsAreAnsweredFenced :
    (Powered (fencing false 4094) ∧ ExitReached (currentStage (fencing false 4094)).exit0 .exit0 ((1#8).setWidth 10) (fencing false 4094)
      ∧ Action.fence (currentStage (fencing false 4094)).exit0.actions = true
      ∧ NextInLine (fencing false 4094) .rqpReport ∧ (fencing false 4094).tsq.rqpReport = some 1
      ∧ (fencing false 4094).rqp.inProcess = some ⟨readReq, .verdictWait, 1, false⟩
      ∧ FitsAsItIs (fencing false 4094) (composeGroup (stageRecord 0 1 .exit0 0x08 0) (fencing false 4094)).flatten.length)
    ∧ ((fencing true 4091).tcu.byChannels = false ∧ Action.captureOff 0x08 = false
      ∧ FitsAsItIs (fencing true 4091) ((composeGroup (stageRecord 0 1 .exit0 0x08 0) (fencing true 4091)).flatten.length
          + (requestFull readReq false true 127 0).length + 1)) :=
  ⟨⟨rfl, by unfold ExitReached; decide +kernel, by decide +kernel, next_at_pointer rfl, rfl, rfl,
    by unfold FitsAsItIs; decide +kernel⟩, by unfold FitsAsItIs; decide +kernel⟩
theorem witness_FencedTransactionsAreAnsweredFenced_response :
    (NextInLine (withRsp .verdictWait (armedAt 0x08 .rspReport)) .rspReport
      ∧ (withRsp .verdictWait (armedAt 0x08 .rspReport)).tsq.rspReport = some 1
      ∧ (entry (withRsp .verdictWait (armedAt 0x08 .rspReport)) 0).traced = false)
    ∧ (NextInLine (tracedReport (armedAt 0x08 .rspReport).tsq 4093) .rspReport
      ∧ (entry (tracedReport (armedAt 0x08 .rspReport).tsq 4093) 0).traced = true
      ∧ NoneWaitsForRoom (tracedReport (armedAt 0x08 .rspReport).tsq 4093)
      ∧ FitsAsItIs (tracedReport (armedAt 0x08 .rspReport).tsq 4093) (composeGroup (stageRecord 0 1 .exit0 0x08 0)
          (tracedReport (armedAt 0x08 .rspReport).tsq 4093)).flatten.length
      ∧ (entryRecord .fenced none 0 (tracedReport (armedAt 0x08 .rspReport).tsq 4093)).length
          ≤ (entry (tracedReport (armedAt 0x08 .rspReport).tsq 4093) 0).reservation) :=
  ⟨⟨next_at_pointer rfl, rfl, by decide +kernel⟩, next_at_pointer rfl, by decide +kernel, of_none,
   by unfold FitsAsItIs; decide +kernel, by decide +kernel⟩
theorem witness_ADwellExpiryLeadsToTheDwellTarget :
    Powered ((armedWith 0).setTsq { (armedWith 0).tsq with dwellExpiry := true, pointer := .dwell })
      ∧ ((armedWith 0).setTsq { (armedWith 0).tsq with dwellExpiry := true, pointer := .dwell }).tsq.state = .armed
      ∧ NextInLine ((armedWith 0).setTsq { (armedWith 0).tsq with dwellExpiry := true, pointer := .dwell }) .dwell :=
  ⟨rfl, rfl, next_at_pointer rfl⟩

/-- A command waits at the pointer, and the STOP store has so many slots filled. -/
def commanded (c : TsqCommand) (filled : Nat) (s : State) : State :=
  withStore 2 [List.replicate filled 0] (s.setTsq { s.tsq with command := some c, pointer := .command })

/-- The RING store is full, and a TRACE_READ snapshot pins its record. -/
def commandedPinned : State :=
  (commanded .arm 0 State.reset).setTst ⟨1, [List.replicate 4095 0], none, 0, false, 4096, some 1⟩

theorem witness_ArmAndDisarmAreTaken :
    (Powered (commanded .arm 4094 State.reset) ∧ NextInLine (commanded .arm 4094 State.reset) .command
      ∧ (commanded .arm 4094 State.reset).tsq.command = some .arm
      ∧ FitsAsItIs (commanded .arm 4094 State.reset)
          (composeGroup (stageRecord 7 0 .arm 0 0) (commanded .arm 4094 State.reset)).flatten.length)
    ∧ (NextInLine commandedPinned .command ∧ modeOf commandedPinned = .ring ∧ commandedPinned.tst.snapshot = some 1
      ∧ Config.storeSlots < (composeGroup (stageRecord 7 0 .arm 0 0) commandedPinned).flatten.length
          + fill commandedPinned + reserved commandedPinned)
    ∧ (NextInLine (commanded .disarm 0 State.reset) .command
      ∧ (commanded .disarm 0 State.reset).tsq.command = some .disarm
      ∧ (commanded .disarm 0 State.reset).tsq.state = .idle)
    ∧ (NextInLine (commanded .disarm 4094 (armedWith 0)) .command
      ∧ (commanded .disarm 4094 (armedWith 0)).tsq.state = .armed
      ∧ FitsAsItIs (commanded .disarm 4094 (armedWith 0))
          (composeGroup (stageRecord 0 5 .disarm 0 0) (commanded .disarm 4094 (armedWith 0))).flatten.length)
    ∧ NextInLine (commanded .disarm 4094 (State.reset.setTsq { State.reset.tsq with state := .fired })) .command :=
  ⟨⟨rfl, next_at_pointer rfl, rfl, by unfold FitsAsItIs; decide +kernel⟩,
   ⟨next_at_pointer rfl, by decide +kernel, rfl, by decide +kernel⟩, ⟨next_at_pointer rfl, rfl, rfl⟩,
   ⟨next_at_pointer rfl, rfl, by unfold FitsAsItIs; decide +kernel⟩, next_at_pointer rfl⟩
theorem witness_RefclkEdgesMakeTicks :
    (Powered (State.reset.setTbs ⟨0, 65534, 5⟩) ∧ (65534 : BitVec 16).toNat + 1 ≠ effectiveDivisor 0)
    ∧ (65535 : BitVec 16).toNat + 1 = effectiveDivisor 0 := by
  unfold Powered; decide +kernel
theorem witness_ATickReachesEveryConsumer :
    (Powered (State.reset.setRqp ⟨true, 5, 7, none⟩)
      ∧ (∀ n, ¬ DueAtNextTick (State.reset.setRqp ⟨true, 5, 7, none⟩) n)
      ∧ (satInc (5 : Half)).toNat < (7 : Half).toNat)
    ∧ PrescaleBelowDivisor (State.reset.setTbs ⟨1, 0, 5⟩) ∧ PrescaleBelowDivisor (State.reset.setTbs ⟨0, 65535, 5⟩) := by
  refine ⟨⟨rfl, fun _ h => absurd h.2.2.1 (by decide +kernel), by decide +kernel⟩, ?_⟩
  unfold PrescaleBelowDivisor; decide +kernel

/-- Slot 63 falls due at the next tick, under a policy; the queue holds some responses. -/
def fallsDue (policy : Policy) (queued : Nat) : State :=
  ((setEntry 63 liveEntry State.reset).setOtt { (setEntry 63 liveEntry State.reset).ott with timeout := 5, policy := policy }).setRmg
    ⟨List.replicate queued answer, .rsp, none⟩

theorem fallsDue_report : DueAtNextTick (fallsDue .report 0) 63 :=
  ⟨by decide +kernel, of_none, by decide +kernel, by decide +kernel⟩
theorem fallsDue_abandon : DueAtNextTick (fallsDue .abandon 7) 63 :=
  ⟨by decide +kernel, of_none, by decide +kernel, by decide +kernel⟩

theorem witness_AnExpiryUnderReportMarksTheEntry :
    Powered (fallsDue .report 0) ∧ (fallsDue .report 0).ott.policy = .report ∧ DueAtNextTick (fallsDue .report 0) 63
      ∧ (entry (fallsDue .report 0) 63).expired = false ∧ (fallsDue .report 0).ans.counts[5] ≠ 255 :=
  ⟨rfl, rfl, fallsDue_report, by decide +kernel, by decide +kernel⟩
theorem witness_AnExpiryUnderReportMarksTheEntry_recorded :
    DueAtNextTick (roomForAnomaly (fallsDue .report 0)) 63
      ∧ (∀ m : Fin 64, m ≠ 63 → ¬ DueAtNextTick (roomForAnomaly (fallsDue .report 0)) m)
      ∧ FitsAsItIs { roomForAnomaly (fallsDue .report 0) with tbs := ⟨1000, 0, 1⟩ } 3 := by
  have free : ∀ m : Fin 64, m ≠ 63 → (entry (roomForAnomaly (fallsDue .report 0)) m).state ≠ .live := by decide +kernel
  exact ⟨fallsDue_report, fun m h d => free m h d.1, by unfold FitsAsItIs; decide +kernel⟩
theorem witness_AnExpiryUnderAbandonOrphansTheEntry :
    Powered (fallsDue .abandon 7) ∧ (fallsDue .abandon 7).ott.policy = .abandon
      ∧ DueAtNextTick (fallsDue .abandon 7) 63
      ∧ (∀ m : Fin 64, m < 63 → ¬ DueAtNextTick (fallsDue .abandon 7) m)
      ∧ (fallsDue .abandon 7).rmg.queue.length + reservedPositions (fallsDue .abandon 7) < Config.queuePositions := by
  have free : ∀ m : Fin 64, m < 63 → (entry (fallsDue .abandon 7) m).state ≠ .live := by decide +kernel
  exact ⟨rfl, rfl, fallsDue_abandon, fun m h d => free m h d.1, by decide +kernel⟩
/-- Slot 63, traced and expired, falls due under ABANDON, the STREAM_STALL store with so many slots filled. -/
def fallsDueTraced (filled : Nat) : State :=
  withStore 3 [List.replicate filled 0] (setEntry 63 { tracedEntry with expired := true } (fallsDue .abandon 7))

theorem witness_AnExpiryUnderAbandonOrphansTheEntry_traced :
    DueAtNextTick (fallsDueTraced 4094) 63 ∧ (entry (fallsDueTraced 4094) 63).traced = true
      ∧ (entry (fallsDueTraced 4094) 63).expired = true
      ∧ (∀ m : Fin 64, m ≠ 63 → ¬ DueAtNextTick (fallsDueTraced 4094) m) ∧ NoneWaitsForRoom (fallsDueTraced 4094)
      ∧ 1 ≤ (entry (fallsDueTraced 4094) 63).reservation
      ∧ FitsAsItIs (fallsDueTraced 4094) (2 - 1) := by
  have free : ∀ m : Fin 64, m ≠ 63 → (entry (fallsDueTraced 4094) m).state ≠ .live := by decide +kernel
  exact ⟨⟨by decide +kernel, of_none, by decide +kernel, by decide +kernel⟩, by decide +kernel, by decide +kernel,
    fun m h d => free m h d.1, of_none, by decide +kernel, by unfold FitsAsItIs; decide +kernel⟩
/-- The same slot with expired clear, in a mode. -/
def fallsDueUnmarked (mode : BitVec 3) (filled : Nat) : State :=
  withStore mode [List.replicate filled 0] (setEntry 63 tracedEntry (fallsDue .abandon 7))

/-- With expired clear: the ANOMALY and RESPONSE records just fit, in STREAM_STALL the second out of the reservation; and
the ANOMALY record alone of an untraced slot. -/
theorem witness_AnExpiryUnderAbandonOrphansTheEntry_bothRecords :
    (DueAtNextTick (fallsDueUnmarked 3 4092) 63 ∧ (entry (fallsDueUnmarked 3 4092) 63).traced = true
      ∧ (entry (fallsDueUnmarked 3 4092) 63).expired = false
      ∧ (∀ m : Fin 64, m ≠ 63 → ¬ DueAtNextTick (fallsDueUnmarked 3 4092) m) ∧ NoneWaitsForRoom (fallsDueUnmarked 3 4092)
      ∧ 1 ≤ (entry (fallsDueUnmarked 3 4092) 63).reservation
      ∧ (composeGroup (anomalyRecord ⟨.timeout, 63, 3, 0x42, 0x1000⟩ 1) (fallsDueUnmarked 3 4092)).flatten.length = 3
      ∧ FitsAsItIs (fallsDueUnmarked 3 4092) (3 + 0))
    ∧ (modeOf (fallsDueUnmarked 4 4091) ≠ .streamStall ∧ FitsAsItIs (fallsDueUnmarked 4 4091) (3 + 1))
    ∧ ((entry (roomForAnomaly (fallsDue .abandon 7)) 63).traced = false
      ∧ FitsAsItIs { roomForAnomaly (fallsDue .abandon 7) with tbs := ⟨1000, 0, 1⟩ } 3) := by
  have free : ∀ m : Fin 64, m ≠ 63 → (entry (fallsDueUnmarked 3 4092) m).state ≠ .live := by decide +kernel
  refine ⟨⟨⟨by decide +kernel, of_none, by decide +kernel, by decide +kernel⟩, by decide +kernel, by decide +kernel,
    fun m h d => free m h d.1, of_none, by decide +kernel, by decide +kernel, ?_⟩, ?_⟩
  · unfold FitsAsItIs; decide +kernel
  · unfold FitsAsItIs; decide +kernel
theorem witness_LimitsRunOutAtTheTick :
    (Powered (State.reset.setRqp ⟨true, 65535, 65535, none⟩) ∧ (satInc (65535 : Half)).toNat = 65535)
    ∧ ((armedWith 0).tsq.state = .armed ∧ (currentStage (armedWith 0)).dwellLimit ≠ 0
      ∧ (armedWith 0).tsq.dwellExpiry = false ∧ (4 : Half) + 1 = (currentStage (armedWith 0)).dwellLimit)
    ∧ (State.reset.setPulse (.driving 1)).pulse = .driving 1 := by
  unfold Powered; decide +kernel
theorem witness_ATransferPassesOneByte :
    (Powered State.reset ∧ (State.reset.setTst { State.reset.tst with tx := some ⟨[7, 8], 1, 6⟩ }).tst.tx
        = some ⟨[7, 8], 1, 6⟩ ∧ (6 : BitVec 3) ≠ 7)
    ∧ ((withStore 3 [[7, 8]] State.reset).tst.tx = none ∧ (withStore 3 [[7, 8]] State.reset).tst.records = [7, 8] :: []
      ∧ modeOf (withStore 3 [[7, 8]] State.reset) = .streamStall)
    ∧ ((withStore 2 [[7, 8]] State.reset).tst.tx = none ∧ modeOf (withStore 2 [[7, 8]] State.reset) ≠ .streamStall
      ∧ modeOf (withStore 2 [[7, 8]] State.reset) ≠ .streamDrop) := by
  unfold Powered; decide +kernel

theorem witness_TheEighthByteFreesTheSlot :
    (Powered (State.reset.setTst { State.reset.tst with tx := some ⟨[7, 8], 1, 7⟩ })
      ∧ (1 < [7, 8].length) ∧ ∀ t, State.reset.rqp.inProcess = some t → t.phase ≠ .roomWait)
    ∧ (Powered waitingForRoom ∧ waitingForRoom.tst.tx = some ⟨[7, 8], 1, 7⟩ ∧ waitingForRoom.rqp.held = false
      ∧ waitingForRoom.rqp.inProcess = some ⟨readReq, .roomWait, 0, false⟩
      ∧ waitingForRoom.tcu.capture = some ⟨false, 3, 7, false⟩ ∧ LowestFree waitingForRoom 0
      ∧ 7 + (fill waitingForRoom - 1) + reserved waitingForRoom = Config.storeSlots) :=
  ⟨⟨rfl, by decide, of_none⟩, by unfold Powered LowestFree; decide +kernel⟩
theorem witness_FramesAreShiftedBitByBit :
    BetweenFrames State.reset
      ∧ (Powered (withFrame .command [] State.reset) ∧ (withFrame .command [] State.reset).mgp.frameState ≠ .idle
        ∧ (withFrame .command [] State.reset).mgp.bitPos ≠ 7)
      ∧ State.reset.mgp.frameState = .idle := by
  unfold Powered BetweenFrames; decide +kernel
theorem witness_ThePortsShowTheirBytes :
    BetweenFrames State.reset
      ∧ (withFrame .command [] State.reset).mgp.frameState = .command
      ∧ (withFrame .header [0x21] State.reset).mgp.frameState = .header
      ∧ (withFrame .payload [0x38] State.reset).mgp.frameState = .payload
      ∧ (withFrame .drain [0x31] State.reset).mgp.frameState = .drain
      ∧ ([1, 2] : List Byte)[1]? = some 2 ∧ (5 : Half).toNat = [0x21, 0, 0, 1].length + 1
      ∧ (Transmission.mk [7, 8] 1 7).record[1]? = some 8
      ∧ modeOf (withStore 3 [[7, 8]] State.reset) = .streamStall
      ∧ modeOf (withStore 2 [[7, 8]] State.reset) ≠ .streamStall ∧ modeOf (withStore 2 [[7, 8]] State.reset) ≠ .streamDrop := by
  unfold BetweenFrames; decide +kernel
theorem witness_ReadCommandsAreTakenAtTheirHeader : BetweenFrames State.reset := ⟨rfl, rfl, rfl⟩
theorem witness_ActionCommandsAreTakenAtTheFramesEnd :
    (BetweenFrames State.reset ∧ BetweenFrames (armedWith 0))
      ∧ (1 ≤ (64 : Byte).toNat ∧ (64 : Byte).toNat ≤ 64 ∧ (List.replicate 64 (0 : Word)).length = (64 : Byte).toNat) :=
  ⟨⟨⟨rfl, rfl, rfl⟩, rfl, rfl, rfl⟩, by decide⟩
/-- A WRITE_REG frame of one word, edge by edge. -/
theorem test_writeRegEdges :
    (result (execAll (.frameBegin :: ((byteEdges 0x22 ++ byteEdges 0x00 ++ byteEdges 0x02 ++ byteEdges 1
      ++ ((([8] : List Word).flatMap wordBytes).flatMap byteEdges)) ++ [.divisorWrite 2 1 [8]])) State.reset)).map
        (fun t => (t.tbs.divisor, t.mgp, t.pins.cs)) = some (8, Mgp.idle .ok, false) := by decide +kernel
theorem witness_FrameEndsLeaveTheirStatus :
    (Powered (withFrame .payload [0x38] State.reset) ∧ (withFrame .payload [0x38] State.reset).mgp.frameState = .payload)
    ∧ ((withFrame .command [] State.reset).mgp.frameState = .command ∧ (withFrame .command [] State.reset).mgp.bitPos = 0)
    ∧ (BetweenFrames State.reset ∧ (0x20 : Byte).toNat < 0x21 ∧ 0x24 < (0x25 : Byte).toNat ∧ (0x30 : Byte).toNat < 0x31
        ∧ 0x3B < (0x3C : Byte).toNat)
    ∧ ([0x23, 64].head? = some (0x23 : Byte)) := by
  unfold Powered BetweenFrames; decide +kernel
theorem witness_ReadsShowTheState :
    (BetweenFrames State.reset ∧ 1 ≤ (64 : Byte).toNat ∧ (64 : Byte).toNat ≤ 64
      ∧ ∀ k < (64 : Byte).toNat, wordAt ((0x010 : Half).toNat + k) ≠ none)
    ∧ wordAt 0x094 = none ∧ (63 : Byte).toNat < 64 ∧ 64 ≤ (64 : Byte).toNat
    ∧ State.reset.ans.first = none
    ∧ (recordAnomaly (unsolicitedAnomaly 1) State.reset).ans.first = some ⟨unsolicitedAnomaly 1, 0⟩ := by
  unfold BetweenFrames; decide +kernel
theorem witness_TraceReadFixesTheOldestRecords :
    BetweenFrames (withStore 1 [[7], [8, 9]] State.reset) := ⟨rfl, rfl, rfl⟩

/-- A TRACE_READ frame of two records, after its header and size. -/
def reading : State :=
  ((withStore 2 [[7], [8, 9]] State.reset).setTst ⟨2, [[7], [8, 9]], none, 0, true, 4096, some 2⟩).setMgp
    { Mgp.idle .ok with
      frameState := .dataOut, received := [0x24, 0, 3], bytePos := 5, frameStatus := some .ok }

theorem witness_TraceReadEndRemovesWhatWasRead :
    Powered reading ∧ reading.mgp.received.head? = some 0x24 ∧ reading.mgp.frameStatus = some .ok
      ∧ reading.tst.snapshot = some 2 ∧ 2 ≤ reading.tst.records.length
      ∧ 5 + 8 * slotsOf (reading.tst.records.take 0) ≤ reading.mgp.bytePos.toNat + 7
      ∧ reading.mgp.bytePos.toNat + 7 < 5 + 8 * slotsOf (reading.tst.records.take 1)
      ∧ 5 + 8 * slotsOf (reading.tst.records.take 2) = reading.mgp.bytePos.toNat + 24 := by
  unfold Powered; decide +kernel
theorem witness_ConfigurationWritesSetTheirFields : BetweenFrames (armedWith 0) := ⟨rfl, rfl, rfl⟩
theorem witness_AModeWriteEmptiesTheStore :
    (BetweenFrames waitingForRoom ∧ waitingForRoom.rqp.inProcess = some ⟨readReq, .roomWait, 0, false⟩
      ∧ waitingForRoom.rqp.held = false ∧ LowestFree waitingForRoom 0)
    ∧ (BetweenFrames (waitingForRoom.setRqp { waitingForRoom.rqp with held := true })
      ∧ (waitingForRoom.setRqp { waitingForRoom.rqp with held := true }).rqp.inProcess
          = some ⟨readReq, .roomWait, 0, false⟩)
    ∧ NoneWaitsForRoom State.reset :=
  ⟨by unfold BetweenFrames LowestFree; decide +kernel, by unfold BetweenFrames; decide +kernel, of_none⟩
theorem witness_TheProgramIsWrittenAsGiven : BetweenFrames State.reset ∧ State.reset.tsq.state ≠ .armed :=
  ⟨⟨rfl, rfl, rfl⟩, by decide⟩
theorem witness_ARefusedWriteWritesNothing :
    BetweenFrames (armedWith 0)
      ∧ (¬ (1 ≤ (0 : Byte).toNat) ∧ ¬ ((65 : Byte).toNat ≤ 64))
      ∧ (wordAt ((0x0CA : Half).toNat + 1) = none ∧ wordAt 0x003 = none)
      ∧ ([] : List Word).length < (1 : Byte).toNat
      ∧ (wordAt 0x08F = some (.stage 3 7) ∧ locked (.stage 3 7) = true ∧ (armedWith 0).tsq.state = .armed)
      ∧ (wordAt 0x01B = some (.channel 0 11) ∧ readOnly (.channel 0 11) = true ∧ State.reset.tsq.state ≠ .armed)
      ∧ locked (.channel 0 11) = false := by
  unfold BetweenFrames; decide +kernel
/-- The first and the last index of each stretch of the map, and of each gap. -/
theorem witness_ARefusedWriteWritesNothing_map :
    (∀ i ∈ [0x000, 0x002, 0x010, 0x06F, 0x070, 0x08F, 0x090, 0x093, 0x0A0, 0x0A1, 0x0B0, 0x0B7, 0x0C0, 0x0CA],
      wordAt i ≠ none)
    ∧ ∀ i ∈ [0x003, 0x00F, 0x094, 0x09F, 0x0A2, 0x0AF, 0x0B8, 0x0BF, 0x0CB, 0x10A], wordAt i = none := by
  decide +kernel
theorem witness_WordsReadBackAsWritten : readOnly (.channel 7 10) = false ∧ readOnly .anomalyMasks = false := by decide
theorem witness_RegisterCommandsChangeTheirBlock :
    (BetweenFrames State.reset ∧ State.reset.tsq.command = none ∧ State.reset.tsq.state ≠ .armed)
    ∧ (armedWith 0).tsq.state = .armed
    ∧ (commanded .disarm 0 State.reset).tsq.command ≠ none := by
  unfold BetweenFrames; decide +kernel
theorem witness_ClearMatchAndPurgeReachEveryRecord :
    BetweenFrames (setEntry 63 { liveEntry with state := .orphaned } State.reset)
      ∧ (entry (setEntry 63 { liveEntry with state := .orphaned } State.reset) 63).state = .orphaned
      ∧ (entry (setEntry 63 { liveEntry with state := .orphaned } State.reset) 0).state ≠ .orphaned := by
  unfold BetweenFrames; decide +kernel
theorem witness_ReleaseHoldEndsTheHold :
    (BetweenFrames State.reset ∧ ∀ t, State.reset.rqp.inProcess = some t → t.phase ≠ .roomWait)
    ∧ (BetweenFrames (setCapture (some ⟨false, 3, 7, true⟩) waitingForRoom)
      ∧ (setCapture (some ⟨false, 3, 7, true⟩) waitingForRoom).tcu.capture = some ⟨false, 3, 7, true⟩
      ∧ LowestFree (setCapture (some ⟨false, 3, 7, true⟩) waitingForRoom) 0) :=
  ⟨⟨⟨rfl, rfl, rfl⟩, of_none⟩, by unfold BetweenFrames LowestFree; decide +kernel⟩
/-- A request in ROOM_WAIT under the hold, its claim not granted: with the room it needs, and with a slot too few. -/
theorem witness_ReleaseHoldEndsTheHold_roomWait :
    (BetweenFrames retiringForRoom ∧ retiringForRoom.rqp.inProcess = some ⟨readReq, .roomWait, 0, false⟩
      ∧ retiringForRoom.tcu.capture = some ⟨false, 3, 7, false⟩ ∧ LowestFree retiringForRoom 1
      ∧ 7 + fill retiringForRoom + reserved retiringForRoom = Config.storeSlots)
    ∧ (BetweenFrames waitingForRoom ∧ waitingForRoom.rqp.inProcess = some ⟨readReq, .roomWait, 0, false⟩
      ∧ waitingForRoom.tcu.capture = some ⟨false, 3, 7, false⟩ ∧ LowestFree waitingForRoom 0
      ∧ Config.storeSlots < 7 + fill waitingForRoom + reserved waitingForRoom) := by
  unfold BetweenFrames LowestFree; decide +kernel
/-- A store of two records in a mode, so many slots in all, STOPPED and snapshot as said. -/
def marking (mode : BitVec 3) (filled : Nat) (stopped : Bool) (snapshot : Option Nat) : State :=
  State.reset.setTst ⟨mode, [[7], List.replicate (filled - 1) 0], none, 0, stopped, 4096, snapshot⟩

/-- The size of a MARK's group there. -/
def markSize (s : State) : Nat := (composeGroup (markRecord 5 0) s).flatten.length

theorem witness_MarkPlacesItsRecord :
    (BetweenFrames State.reset ∧ modeOf State.reset = .off)
    ∧ (BetweenFrames (withStore 4 fullStore State.reset)
      ∧ FitsAsItIs (withStore 4 fullStore State.reset) (markSize (withStore 4 fullStore State.reset))
      ∧ fill (withStore 4 fullStore State.reset) < 4096)
    ∧ (modeOf (marking 1 4095 false none) = .ring ∧ (marking 1 4095 false none).tst.snapshot = none
      ∧ (marking 1 4095 false (some 0)).tst.snapshot = some 0
      ∧ fill (marking 1 4095 false none) + reserved (marking 1 4095 false none) ≤ Config.storeSlots
      ∧ markSize (marking 1 4095 false none) + fill (marking 1 4095 false none) + reserved (marking 1 4095 false none)
          = Config.storeSlots + slotsOf ((marking 1 4095 false none).tst.records.take 1)
      ∧ ∀ j < 1, Config.storeSlots + slotsOf ((marking 1 4095 false none).tst.records.take j)
          < markSize (marking 1 4095 false none) + fill (marking 1 4095 false none) + reserved (marking 1 4095 false none))
    ∧ ((marking 1 4095 false (some 1)).tst.snapshot = some 1
      ∧ Config.storeSlots < markSize (marking 1 4095 false (some 1)) + fill (marking 1 4095 false (some 1))
          + reserved (marking 1 4095 false (some 1)))
    ∧ (modeOf (marking 2 1 true none) = .stop ∧ (marking 2 1 true none).tst.stopped = true)
    ∧ (modeOf (marking 2 4095 false none) = .stop ∧ Config.storeSlots < markSize (marking 2 4095 false none)
          + fill (marking 2 4095 false none) + reserved (marking 2 4095 false none))
    ∧ (modeOf (marking 4 4095 false none) = .streamDrop ∧ modeOf (marking 3 4095 false none) = .streamStall
      ∧ Config.storeSlots < markSize (marking 4 4095 false none) + claim (marking 4 4095 false none)
          + fill (marking 4 4095 false none) + reserved (marking 4 4095 false none)) := by
  unfold BetweenFrames FitsAsItIs; decide +kernel
theorem witness_MarkPlacesItsRecord_layouts : ∃ b rest, writeReq.beats = b :: rest := ⟨_, _, rfl⟩
theorem witness_ClearWatchClearsTheWatchState :
    BetweenFrames waitingForRoom ∧ LowestFree waitingForRoom 0
      ∧ waitingForRoom.rqp.inProcess = some ⟨readReq, .roomWait, 0, false⟩
      ∧ (withTxn readReq .verdictWait 1 State.reset).rqp.inProcess = some ⟨readReq, .verdictWait, 1, false⟩
      ∧ (withTxn readReq .holdPoint 1 State.reset).rqp.inProcess = some ⟨readReq, .holdPoint, 1, false⟩
      ∧ (withRsp .verdictWait State.reset).rsp.inProcess = some ⟨0, .verdictWait, .okay, [1, 2, 3, 4]⟩
      ∧ State.reset.rqp.inProcess = none := by
  unfold BetweenFrames LowestFree; decide +kernel
theorem witness_TheAddressConditionIsAboutBytes :
    (Channel.reset.outside = false ∧ { Channel.reset with outside := true }.outside = true)
      ∧ (watchedResponse liveEntry .fault []).status = some .fault
      ∧ channelMatches { Channel.reset with
          enable := true, windowHigh := 0xFFFFFFFFFF, lengthMin := 4, lengthMax := 4, kindFilter := 1, classFilter := 1,
          initMask := 0x1F, initValue := 3, ctxMask := 0xFF, ctxValue := 9 } (watchedRequest readReq) = true := by
  decide +kernel
theorem witness_TheDataConditionFindsALane :
    (Channel.reset.dataFilter = false ∧ { Channel.reset with dataFilter := true }.dataFilter = true)
      ∧ (writeReq.kind = .write ∧ readReq.kind = .read)
      ∧ (liveEntry.kind = .read ∧ { liveEntry with kind := .write }.kind = .write) :=
  ⟨⟨rfl, rfl⟩, ⟨rfl, rfl⟩, rfl, rfl⟩

/-- RSP's response is offered upstream, and the interconnect is about to take it. -/
def delivering : State := ((responding 0 (some .rsp)).setTbs ⟨1000, 0, 4⟩).setPending [.upstreamResponseTake]

/-- The response RSP holds in `delivering`. -/
theorem delivering_rsp {t : RspTxn} (e : delivering.rsp.inProcess = some t) :
    t = ⟨0, .offered answer, .okay, [1, 2, 3, 4]⟩ := (Option.some.inj e).symm
theorem delivering_paths : PathsAgreeWithTable delivering := by
  refine ⟨?_, ?_, ?_, by decide +kernel, by decide +kernel⟩
  · intro t e
    rw [delivering_rsp e]
    decide +kernel
  · intro t n e
    exact nomatch (show none = some t from e)
  · intro h
    exact absurd rfl h
theorem delivering_responses : ResponsesWellFormed delivering := by
  refine ⟨?_, ?_, ?_⟩
  · intro r h
    exact nomatch (show r ∈ [] from h)
  · intro t e
    rw [delivering_rsp e]
    decide +kernel
  · intro t a e p
    rw [delivering_rsp e] at p ⊢
    cases p
    exact Or.inl (by decide +kernel)
theorem witness_EveryStepKeepsTheQueueWithinBound :
    QueueWithinBound delivering ∧ ∃ t, step delivering = .next t := by
  refine ⟨?_, _, rfl⟩
  unfold QueueWithinBound; decide +kernel
theorem witness_EveryStepKeepsTheTableConsistent :
    (LivePairsDistinct delivering ∧ RequestNotDuplicate delivering ∧ PathsAgreeWithTable delivering)
      ∧ ∃ t, step delivering = .next t :=
  ⟨⟨by unfold LivePairsDistinct; decide +kernel, of_none, delivering_paths⟩, _, rfl⟩
theorem witness_EveryStepKeepsThePathsConsistent :
    (PathsAgreeWithTable delivering ∧ ReportsAgreeWithPaths delivering ∧ ResponsesWellFormed delivering)
      ∧ ∃ t, step delivering = .next t :=
  ⟨⟨delivering_paths, ⟨of_none, of_none, of_none, fun _ e p => by rw [delivering_rsp e] at p; cases p⟩, delivering_responses⟩, _, rfl⟩
theorem witness_EveryStepKeepsTheStoreWithinBound :
    (StoreWithinBound delivering ∧ TraceFieldsClear delivering) ∧ ∃ t, step delivering = .next t :=
  ⟨⟨⟨by decide +kernel, by decide +kernel, of_none⟩, by unfold TraceFieldsClear; decide +kernel⟩, _, rfl⟩
theorem witness_EveryStepKeepsTheCountersWithinLimits :
    (SequencerWithinProgram delivering ∧ PrescaleBelowDivisor delivering
        ∧ AgesFollowTimestamp delivering)
      ∧ ∃ t, step delivering = .next t := by
  refine ⟨⟨?_, ?_, ?_⟩, _, rfl⟩
  · unfold SequencerWithinProgram; decide +kernel
  · unfold PrescaleBelowDivisor; decide +kernel
  · unfold AgesFollowTimestamp; decide +kernel
theorem witness_EveryStepKeepsTheResetsInForce :
    HeldAtPowerOn (State.reset.setPins ⟨true, true, false⟩) ∧ LinksQuiet (State.reset.setPins ⟨true, true, false⟩)
      ∧ ∃ t, step (State.reset.setPins ⟨true, true, false⟩) = .next t := by
  refine ⟨?_, ?_, _, rfl⟩
  · unfold HeldAtPowerOn; decide +kernel
  · unfold LinksQuiet; decide +kernel
theorem witness_EveryRequestIsAnsweredOnce :
    PathsAgreeWithTable delivering ∧ ResponsesWellFormed delivering ∧ LinksUp delivering
      ∧ deliveredTo (3, 0x42) delivering = 1 ∧ owed (3, 0x42) delivering = 1
      ∧ takenFor (3, 0x42) readReq State.reset = 1 :=
  ⟨delivering_paths, delivering_responses, ⟨rfl, rfl⟩, by decide +kernel, by decide +kernel, by decide +kernel⟩

end Sys2Proof.Tests
end

/-! PROOFS. The invariants of the table and the paths (R3, R4, R6, R8, R51, R163, R177): every step keeps them. -/
namespace Sys2Proof.Machine

/-! ### Commands that answer no message -/

/-- R54: an input taken and counted moves nothing but the latches. -/
theorem countTaken_moves (i : Input) (x : BitVec 10) (s : State)
    (h1 : (clearLatch s.tsq i).rqpReport = s.tsq.rqpReport) (h2 : (clearLatch s.tsq i).rspReport = s.tsq.rspReport) :
    Moves s (countInput x (takeInput i s)).2 :=
  (Moves.same rfl rfl rfl h1 h2 rfl : Moves s (takeInput i s)).trans (countInput_moves x _)

theorem takeXt_moves (s : State) : Moves s (takeXt s) := by
  unfold takeXt
  split
  · exact countTaken_moves .xt _ s rfl rfl
  · exact .refl s

theorem takeAn_moves (s : State) : Moves s (takeAn s) := by
  unfold takeAn
  split
  · exact countTaken_moves .an _ s rfl rfl
  · exact .refl s

theorem takeDwell_moves (s : State) : Moves s (takeDwell s) := by
  have h : Moves s (takeInput .dwell s) := .same rfl rfl rfl rfl rfl rfl
  unfold takeDwell
  dsimp only
  split
  · split
    · exact h.trans (transition_moves _ _ _ _)
    · exact h
  · exact .refl s

theorem takeArmCommand_moves (s : State) : Moves s (takeArmCommand s) := by
  unfold takeArmCommand
  dsimp only
  split
  · refine Moves.trans ?_ (offerEvent_moves _ _)
    exact .same rfl rfl rfl rfl rfl rfl
  · exact .refl s

theorem takeDisarmCommand_moves (s : State) : Moves s (takeDisarmCommand s) := by
  unfold takeDisarmCommand
  dsimp only
  split
  · split
    · exact .same rfl rfl rfl rfl rfl rfl
    all_goals
      refine Moves.trans ?_ (offerEvent_moves _ _)
      exact .same rfl rfl rfl rfl rfl rfl
  · exact .refl s

/-- R154 to R156: a tick. -/
theorem tickEvent_moves {s : State} (p : PathsAgreeWithTable s) : Moves s (tickEvent s) := by
  have h : Moves s (s.setTbs { s.tbs with prescale := 0, timestamp := s.tbs.timestamp + 1 }) :=
    .same rfl rfl rfl rfl rfl rfl
  exact h.trans ((ottTick_moves _ (h.pat p)).trans ((rqpTick_moves _).trans ((tsqTick_moves _).trans (pulseTick_moves _))))

theorem beginRecord_moves (s : State) : Moves s (beginRecord s) :=
  .same (by simp) (by simp) (by simp) (by simp) (by simp) (by simp)

theorem removeRead_moves (n : Nat) (s : State) : Moves s (removeRead n s) :=
  .same (by simp) (by simp) (by simp) (by simp) (by simp) (by simp)

/-- R23: traced flags and reservations cleared in every slot. -/
theorem untraced_moves {s : State} (p : PathsAgreeWithTable s) : Moves s (mapEntries Entry.untraced s) :=
  .mapped _ p (fun _ h => h) (fun _ h => h) (fun _ h => by simp [Entry.untraced, h]) (fun _ => ⟨rfl, rfl, rfl, rfl⟩)

/-- R1: timeout, policy and purge count have no part in a move. -/
theorem Moves.settings {s : State} {x : Ott} (h : x.slots = s.ott.slots) : Moves s (s.setOtt x) := by
  have he : ∀ n, entry (s.setOtt x) n = entry s n := fun n => by simp [entry, h]
  exact .slots rfl rfl rfl rfl (fun n _ => by rw [he]) (fun n => by rw [he]; exact id) (fun n => by rw [he]; exact id)
    (fun n => by rw [he]; exact ⟨rfl, rfl, rfl, rfl⟩)

/-- R20: a purge frees ORPHANED slots alone. -/
theorem purge_moves {s : State} (p : PathsAgreeWithTable s) : Moves s (purge s) := by
  have h : Moves s (mapEntries Entry.purged s) := .mapped _ p
    (fun e h => by simp [Entry.purged, h]) (fun e h => by simp [Entry.purged, h])
    (fun e h => by simp [Entry.purged, Entry.freed, h])
    (fun e => by unfold Entry.purged; split <;> exact ⟨rfl, rfl, rfl, rfl⟩)
  exact h.trans (.settings rfl)

/-- R128: a mode write. -/
theorem writeMode_moves {s : State} (p : PathsAgreeWithTable s) (m : BitVec 3) : Moves s (writeMode m s) := by
  unfold writeMode
  dsimp only
  refine (untraced_moves p).trans (Moves.trans ?_ (cancelCapture_moves _))
  exact .same (by simp) (by simp) (by simp) (by simp) (by simp) (by simp)

/-- R188: a written word. -/
theorem writeWord_moves {s : State} (p : PathsAgreeWithTable s) (x : WinWord) (w : Word) : Moves s (writeWord s x w) := by
  cases x with
  | storeMode => exact writeMode_moves p _
  | timeout =>
    exact .settings rfl
  | _ => exact .same rfl rfl rfl rfl rfl rfl

theorem latchArm_moves (s : State) : Moves s (latchArm s).2 := by
  unfold latchArm; split <;> exact .same rfl rfl rfl rfl rfl rfl

theorem latchDisarm_moves (s : State) : Moves s (latchDisarm s).2 := by
  unfold latchDisarm; split <;> exact .same rfl rfl rfl rfl rfl rfl

/-! ### Commands that move messages, and resets -/

/-- The operations of the blocks that take or answer a message, or reset, keep `P`. -/
structure KeptByMessages (P : State → Prop) : Prop where
  takeRequest : ∀ r s, P s → P (takeRequest r s)
  takeDownstream : ∀ s, P s → P (takeDownstream s)
  takeResponse : ∀ r s, P s → P (takeResponse r s)
  beginUpstreamOffer : ∀ s, P s → P (beginUpstreamOffer s)
  takeUpstream : ∀ s, P s → P (takeUpstream s)
  takeReport : ∀ s, P s → P (takeReport s)
  linkReset : ∀ s, P s → P (linkReset s)
  powerOn : ∀ s, P s → P (powerOn s)
  clearWatch : ∀ s, P s → P (clearWatch s)

/-- A property that goes along with `Moves` and is kept where messages are taken and answered is kept by every
operation. -/
theorem KeptByMessages.operations {P : State → Prop} (k : KeptByMessages P) (hp : ∀ s, P s → PathsAgreeWithTable s)
    (hm : ∀ s t, Moves s t → P s → P t) : KeptByOperations P where
  pending s _ := hm s _ (.same rfl rfl rfl rfl rfl rfl)
  mgp s _ := hm s _ (.same rfl rfl rfl rfl rfl rfl)
  cs s _ := hm s _ (.same rfl rfl rfl rfl rfl rfl)
  lrst s _ h _ := hm s _ (.same rfl rfl rfl rfl rfl rfl) h
  porst s := hm s _ (.same rfl rfl rfl rfl rfl rfl)
  takeRequest r s _ := k.takeRequest r s
  passHoldPoint s _ := hm s _ (passHoldPoint_moves s)
  takeDownstream s _ := k.takeDownstream s
  takeResponse r s _ := k.takeResponse r s
  beginUpstreamOffer s _ := k.beginUpstreamOffer s
  takeUpstream s _ := k.takeUpstream s
  takeReport := k.takeReport
  takeXt s := hm s _ (takeXt_moves s)
  takeAn s := hm s _ (takeAn_moves s)
  takeDwell s := hm s _ (takeDwell_moves s)
  takeArm s := hm s _ (takeArmCommand_moves s)
  takeDisarm s := hm s _ (takeDisarmCommand_moves s)
  latchXt s := hm s _ (.same rfl rfl rfl rfl rfl rfl)
  tick s h := hm s _ (tickEvent_moves (hp s h)) h
  prescale s h _ := hm s _ (.same rfl rfl rfl rfl rfl rfl) h
  beginRecord s := hm s _ (beginRecord_moves s)
  freeSlot s := hm s _ (freeSlot_moves s)
  passByte s _ h _ := hm s _ (setTst_moves s _) h
  linkReset := k.linkReset
  powerOn := k.powerOn
  pin s _ := hm s _ (setTst_moves s _)
  removeRead n s := hm s _ (removeRead_moves n s)
  writeWord s x w h _ := hm s _ (writeWord_moves (hp s h) x w) h
  latchArm s := hm s _ (latchArm_moves s)
  latchDisarm s := hm s _ (latchDisarm_moves s)
  release s := hm s _ (release_moves s)
  purge s h := hm s _ (purge_moves (hp s h)) h
  setCapturing _ s := hm s _ (.same rfl rfl rfl rfl rfl rfl)
  placeMark _ s := hm s _ (offerEvent_moves _ s)
  acknowledge _ s := hm s _ (.same rfl rfl rfl rfl rfl rfl)
  clearSummary s := hm s _ (.same rfl rfl rfl rfl rfl rfl)
  clearMatches s := hm s _ (.same rfl rfl rfl rfl rfl rfl)
  clearWatch := k.clearWatch

/-! ### What the messages do to RQP and RSP -/

/-- R51: the latches of TSQ have no part in a move but for the reports. -/
theorem Moves.setTsq {s t : State} (m : Moves s t) {x y : Tsq} (h1 : y.rqpReport = x.rqpReport)
    (h2 : y.rspReport = x.rspReport) : Moves (s.setTsq x) (t.setTsq y) where
  bound := m.bound
  free := m.free
  live := m.live
  rsp := m.rsp
  offer := m.offer
  queue := m.queue
  nonempty := m.nonempty
  rqpReport := h1
  rspReport := h2
  none := m.none
  some := m.some

/-- R54: a report taken and counted moves nothing, the latches put aside. -/
theorem countTaken_moves_latched (i : Input) (x : BitVec 10) (s : State) :
    Moves s ((countInput x (takeInput i s)).2.setTsq s.tsq) :=
  (countInput_moves x (takeInput i s)).setTsq (x := s.tsq) (y := s.tsq) rfl rfl

/-- R51: after a take and its count the reports are those of the emptied latch. -/
theorem countTaken_reports (i : Input) (x : BitVec 10) (s : State) :
    (countInput x (takeInput i s)).2.tsq.rqpReport = (clearLatch s.tsq i).rqpReport
      ∧ (countInput x (takeInput i s)).2.tsq.rspReport = (clearLatch s.tsq i).rspReport :=
  ⟨(countInput_moves x (takeInput i s)).rqpReport, (countInput_moves x (takeInput i s)).rspReport⟩

/-- R6, R164: an empty RQP answers PROTOCOL. -/
theorem answerProtocol_moves {s : State} (h : s.rqp.inProcess = none) (r : Request) (a : Anomaly) :
    Moves s (answerProtocol r a s) := by
  have h0 : Moves s (setTxn none s) := .same rfl rfl rfl rfl rfl (by simp [h])
  exact h0.trans ((enqueue_moves _ ⟨rfl, .inl rfl⟩).trans (takeAnomaly_moves a _))

/-- R86: the fenced request has left RQP; its answer and records move nothing else. -/
theorem fenceRequest_moves (s : State) : Moves (setTxn none s) (fenceRequest s) := by
  unfold fenceRequest
  split
  · rename_i t _
    have h := enqueue_moves (r := answerTo t.req .fenced) (setTxn none s) ⟨rfl, .inr (.inl rfl)⟩
    dsimp only
    split
    · exact h.trans (.same (by simp) (by simp) (by simp) (by simp) (by simp) (by simp))
    · exact h
  · rename_i h
    exact .same rfl rfl rfl rfl rfl h

/-- R165: a request whose verdict is FORWARD. -/
def RqpTxn.forwarded (x : RqpTxn) : RqpTxn := if x.phase = .verdictWait then { x with phase := .holdPoint } else x

theorem RqpTxn.forwarded_phase (x : RqpTxn) : x.forwarded.phase ≠ .verdictWait := by
  unfold RqpTxn.forwarded
  split
  · nofun
  · assumption

theorem RqpTxn.forwarded_offered {x : RqpTxn} {n : Fin 64} (h : x.forwarded.phase = .offered n) : x.phase = .offered n := by
  unfold RqpTxn.forwarded at h
  split at h
  · cases h
  · exact h

theorem RqpTxn.forwarded_req (x : RqpTxn) : x.forwarded.req = x.req := by
  unfold RqpTxn.forwarded; split <;> rfl

theorem forwardRequest_eq (s : State) : forwardRequest s = setTxn (s.rqp.inProcess.map RqpTxn.forwarded) s := by
  unfold forwardRequest
  cases h : s.rqp.inProcess with
  | none =>
    show s = setTxn none s
    rw [← h]; rfl
  | some x =>
    dsimp only [Option.map]
    by_cases hp : x.phase = .verdictWait
    · rw [if_pos hp, RqpTxn.forwarded, if_pos hp]
    · rw [if_neg hp, RqpTxn.forwarded, if_neg hp, ← h]; rfl

/-- R9: the bound entry retired, before room wait is settled. -/
def retired (x : RspTxn) (s : State) : State := (setEntry x.slot (entry s x.slot).freed s).setRsp { inProcess := none }

theorem retire_eq {x : RspTxn} {s : State} (h : s.rsp.inProcess = some x) : retire s = settleRoom (retired x s) := by
  simp only [retire, h, retired]

theorem retire_none {s : State} (h : s.rsp.inProcess = none) : retire s = s := by simp only [retire, h]

/-- R9: the slots after a retirement. -/
theorem entry_retired (x : RspTxn) (s : State) (m : Fin 64) :
    entry (retired x s) m = if m = x.slot then (entry s x.slot).freed else entry s m := by
  simp [retired, entry_setEntry]

/-- R170: the request taken downstream, before the deferred claims. -/
def takenDown (t : RqpTxn) (n : Fin 64) (s : State) : State :=
  setTxn none (placeRequest t.req n (setEntry n (allocated t.req s.tbs.timestamp (entry s n)) s))

theorem takeDownstream_eq {t : RqpTxn} {n : Fin 64} {s : State} (h : s.rqp.inProcess = some t) (hp : t.phase = .offered n) :
    takeDownstream s = makeClaims (takenDown t n s) := by
  simp only [takeDownstream, h, hp, takenDown]

/-- R170: with no request offered there is no take. -/
theorem takeDownstream_none {s : State} (h : ∀ t n, s.rqp.inProcess = some t → t.phase ≠ .offered n) :
    takeDownstream s = s := by
  unfold takeDownstream
  split
  · split
    · rename_i t ht _ n hn; exact absurd hn (h t n ht)
    · rfl
  · rfl

/-- R5: every other slot stays; the allocated one holds the request, traced or not. -/
theorem entry_takenDown (t : RqpTxn) (n : Fin 64) (s : State) (m : Fin 64) :
    (m ≠ n → entry (takenDown t n s) m = entry s m)
      ∧ (m = n → ∃ b k, entry (takenDown t n s) m
          = { allocated t.req s.tbs.timestamp (entry s n) with traced := b, reservation := k }) := by
  have h := placeRequest_entry t.req n (setEntry n (allocated t.req s.tbs.timestamp (entry s n)) s) m
  rw [entry_setEntry] at h
  constructor
  · intro hm
    rw [if_neg hm] at h
    simpa [takenDown, hm] using h
  · intro hm
    rw [if_pos hm] at h
    rcases h with h | ⟨_, c, _, h⟩
    · exact ⟨false, 0, by simpa [takenDown, allocated] using h⟩
    · exact ⟨true, c.responseReservation, by simpa [takenDown] using h⟩

/-- R174: what an evaluated response leaves in RSP and the latches: offered without a report, or reported and waiting. -/
def ResponsePlaced (n : Fin 64) (st : DownStatus) (d : List BeatData) (s t : State) : Prop :=
  (t.rsp.inProcess = some ⟨n, .offered (upstreamAnswer (entry s n) ⟨n, .checks, st, d⟩ false), st, d⟩
      ∧ t.tsq.rspReport = s.tsq.rspReport)
    ∨ (t.rsp.inProcess = some ⟨n, .verdictWait, st, d⟩ ∧ ∃ h, h ≠ 0 ∧ t.tsq.rspReport = some h)

theorem evaluateResponse_placed (n : Fin 64) (st : DownStatus) (d : List BeatData) (s : State) :
    ResponsePlaced n st d s (evaluateResponse n st d s)
      ∧ (evaluateResponse n st d s).tsq.rqpReport = s.tsq.rqpReport := by
  unfold evaluateResponse
  dsimp only
  split
  · refine ⟨.inl ⟨?_, by simp⟩, by simp⟩
    rw [answerResponse_rsp rfl]
    simp
  · rename_i h
    exact ⟨.inr ⟨rfl, _, h, rfl⟩, by simp⟩

/-- R173: a matched response is placed with the data beats that its status calls for. -/
theorem takeMatched_placed (n : Fin 64) (r : Response) (s : State) :
    ∃ st d, d.length = expectedBeats (entry s n).kind (entry s n).lenM1 st
      ∧ ResponsePlaced n st d s (takeMatched n r s) ∧ (takeMatched n r s).tsq.rqpReport = s.tsq.rqpReport := by
  unfold takeMatched
  dsimp only
  split
  · rename_i hb
    have h := evaluateResponse_placed n r.status r.beats
      (s.setRsp { inProcess := some { slot := n, phase := .checks, status := r.status, data := r.beats } })
    exact ⟨r.status, r.beats, hb, by simpa [ResponsePlaced] using h.1, h.2⟩
  · have h := evaluateResponse_placed n .fault [] (takeAnomaly (entryAnomaly .malformedResponse n (entry s n))
      (s.setRsp { inProcess := some { slot := n, phase := .checks, status := r.status, data := r.beats } }))
    exact ⟨.fault, [], rfl, by simpa [ResponsePlaced, takeAnomaly_tsq] using h.1, by simpa [takeAnomaly_tsq] using h.2⟩

theorem takeMatched_frame (n : Fin 64) (r : Response) (s : State) :
    (takeMatched n r s).rqp = s.rqp ∧ (takeMatched n r s).rmg = s.rmg := by
  unfold takeMatched; dsimp only; split <;> simp

/-- R7: the lookup by the state and the generation of the slot that the tag names. -/
theorem lookup_cases (tag : BitVec 7) (s : State) :
    (lookup tag s = .matched ∧ (entry s (tagSlot tag)).state = .live ∧ (entry s (tagSlot tag)).gen = tagGen tag)
      ∨ (lookup tag s = .late ∧ (entry s (tagSlot tag)).state = .orphaned ∧ (entry s (tagSlot tag)).gen = tagGen tag)
      ∨ (lookup tag s = .unsolicited
        ∧ ((entry s (tagSlot tag)).state = .free ∨ (entry s (tagSlot tag)).gen ≠ tagGen tag)) := by
  unfold lookup
  dsimp only
  generalize entry s (tagSlot tag) = e
  cases h : e.state <;> by_cases hg : e.gen = tagGen tag <;> simp [hg]

/-- R10: a late response frees its slot and moves nothing else. -/
theorem takeLate_moves (n : Fin 64) {s : State} (hr : s.rsp.inProcess = none) :
    Moves s (takeLate n s) := by
  have h : Moves s (setEntry n (entry s n).freed s) :=
    setEntry_moves (fun hb => by simp [bound, hr] at hb) (fun _ => rfl) (fun h => by simp [Entry.freed] at h)
      ⟨rfl, rfl, rfl, rfl⟩
  exact h.trans (takeAnomaly_moves _ _)

/-- R7: a response that finds RSP EMPTY is matched to a LIVE entry, or changes no path. -/
theorem takeResponse_cases (r : Response) (s : State) :
    Moves s (takeResponse r s)
      ∨ ∃ n, s.rsp.inProcess = none ∧ (entry s n).state = .live ∧ takeResponse r s = takeMatched n r s := by
  unfold takeResponse
  split
  · rename_i h
    have hn : s.rsp.inProcess = none := by simpa using h
    obtain ⟨hl, hs, _⟩ | ⟨hl, _⟩ | ⟨hl, _⟩ := lookup_cases r.tag s <;> rw [hl]
    · exact .inr ⟨_, hn, hs, rfl⟩
    · exact .inl (takeLate_moves _ hn)
    · exact .inl (takeAnomaly_moves _ s)
  · exact .inl (.refl s)

/-- R166: a request that is taken finds RQP EMPTY and a FREE slot; it is evaluated, no duplicate of a LIVE entry, or
answered. -/
theorem takeRequest_cases (r : Request) (s : State) :
    Moves s (takeRequest r s)
      ∨ s.rqp.inProcess = none ∧ (∃ n, (entry s n).state = .free) ∧ PairFree r s
        ∧ takeRequest r s = evaluateRequest r s := by
  unfold takeRequest
  split
  · rename_i h
    simp only [acceptsRequest, Bool.and_eq_true, Option.isNone_iff_eq_none, lowestFree_isSome] at h
    obtain ⟨⟨⟨hn, _⟩, hf⟩, _⟩ := h
    split
    · exact .inl (answerProtocol_moves hn _ _)
    · split
      · exact .inl (answerProtocol_moves hn _ _)
      · rename_i hd; exact .inr ⟨hn, hf, duplicateOf_none.1 hd, rfl⟩
  · exact .inl (.refl s)

/-- R29, R51: an evaluated request stands at the hold point without a report, or waits with its hit set as the report. -/
theorem evaluateRequest_placed (r : Request) (s : State) :
    (evaluateRequest r s).tsq.rspReport = s.tsq.rspReport
      ∧ (((evaluateRequest r s).rqp.inProcess = some ⟨r, .holdPoint, 0, false⟩
          ∧ (evaluateRequest r s).tsq.rqpReport = s.tsq.rqpReport)
        ∨ ∃ h, h ≠ 0 ∧ (evaluateRequest r s).rqp.inProcess = some ⟨r, .verdictWait, h, false⟩
          ∧ (evaluateRequest r s).tsq.rqpReport = some h) := by
  unfold evaluateRequest
  dsimp only
  split
  · exact ⟨by simp, .inl ⟨rfl, by simp⟩⟩
  · rename_i h
    exact ⟨by simp, .inr ⟨_, h, rfl, rfl⟩⟩

/-- R179, R199: after a reset no message is in the part and no slot is LIVE. -/
structure Quiet (s : State) : Prop where
  rqp : s.rqp.inProcess = none
  rsp : s.rsp.inProcess = none
  queue : s.rmg.queue = []
  offer : s.rmg.offer = none
  rqpReport : s.tsq.rqpReport = none
  rspReport : s.tsq.rspReport = none
  slots : ∀ n, (entry s n).state = .free

theorem linkReset_quiet (s : State) : Quiet (linkReset s) where
  rqp := by simp [linkReset, discardTraffic]
  rsp := by simp [linkReset, discardTraffic]
  queue := by simp [linkReset, discardTraffic]
  offer := by simp [linkReset, discardTraffic]
  rqpReport := by simp [linkReset, discardTraffic]
  rspReport := by simp [linkReset, discardTraffic]
  slots n := by rw [linkReset_entry]; rfl

theorem powerOn_quiet (s : State) : Quiet (powerOn s) where
  rqp := rfl
  rsp := rfl
  queue := rfl
  offer := rfl
  rqpReport := rfl
  rspReport := rfl
  slots n := by rw [powerOn_entry]; rfl

/-- R195: CLEAR_WATCH up to the answers to the waiting reports, which are gone from their latches. -/
def watchCleared (s : State) : State :=
  let s1 := clearMatches (mapEntries Entry.untraced s)
  cancelCapture (releaseFlag (((s1.setTsq (clearTsq s1.tsq)).setTcu (clearTcu s1.tcu)).setTst (clearTst s1.tst)))

theorem watchCleared_tsq (s : State) : (watchCleared s).tsq = clearTsq s.tsq := by simp [watchCleared]

/-- R195: what CLEAR_WATCH does after the answers moves nothing. -/
theorem clearWatch_moves (s : State) : Moves (forwardResponse (forwardRequest (watchCleared s))) (clearWatch s) := by
  show Moves _ (State.setAlc _ (clearSummary (forwardResponse (forwardRequest (watchCleared s)))))
  generalize forwardResponse (forwardRequest (watchCleared s)) = t
  exact .same rfl rfl rfl rfl rfl rfl

/-- R195: apart from the reports, CLEAR_WATCH moves nothing before the answers. -/
theorem watchCleared_moves {s : State} (p : PathsAgreeWithTable s) : Moves s ((watchCleared s).setTsq s.tsq) := by
  refine (untraced_moves p).trans ?_
  unfold watchCleared
  dsimp only
  refine Moves.trans ?_ ((cancelCapture_moves _).setTsq (x := s.tsq) (y := s.tsq) rfl rfl)
  exact .same (by simp) (by simp) (by simp) (by simp) (by simp) (by simp)

end Sys2Proof.Machine
namespace Sys2Proof.Machine

/-! ### The paths agree with the table (R3, R4, R8, R177) -/

/-- Only slots, RSP, RMG and the request in process count. -/
theorem PathsAgreeWithTable.congr {s t : State} (h1 : t.ott = s.ott) (h2 : t.rsp = s.rsp) (h3 : t.rmg = s.rmg)
    (h4 : t.rqp.inProcess = s.rqp.inProcess) (h : PathsAgreeWithTable s) : PathsAgreeWithTable t := by
  simpa only [PathsAgreeWithTable, entry_congr h1, h2, h3, h4, rspAnswer_congr h2] using h

/-- Another request in process, or none: the slot of an offer is FREE, and so is one while there is a request. -/
theorem PathsAgreeWithTable.setTxn {s : State} (p : PathsAgreeWithTable s) {o : Option RqpTxn}
    (ho : ∀ x n, o = some x → x.phase = .offered n → (entry s n).state = .free)
    (hf : o ≠ none → ∃ n, (entry s n).state = .free) : PathsAgreeWithTable (Machine.setTxn o s) := by
  obtain ⟨p1, _, _, p4, p5⟩ := p
  exact ⟨by simpa using p1, by simpa using ho, by simpa using hf, p4, p5⟩

theorem PathsAgreeWithTable.answered {s : State} (p : PathsAgreeWithTable s) :
    PathsAgreeWithTable (Machine.setTxn none s) := p.setTxn nofun (fun h => absurd rfl h)

theorem PathsAgreeWithTable.forwarded {s : State} (p : PathsAgreeWithTable s) :
    PathsAgreeWithTable (forwardRequest s) := by
  rw [forwardRequest_eq]
  refine p.setTxn (fun y n hy hp => ?_) (fun h => p.2.2.1 (by simpa using h))
  obtain ⟨x, hx, rfl⟩ := Option.map_eq_some_iff.1 hy
  exact p.2.1 x n hx (RqpTxn.forwarded_offered hp)

/-- A response of a LIVE slot in process, the other paths and the slots' states as they were. -/
theorem PathsAgreeWithTable.responded {s t : State} {x : RspTxn} (p : PathsAgreeWithTable s)
    (hs : ∀ n, (entry t n).state = (entry s n).state) (hq : t.rqp.inProcess = s.rqp.inProcess) (hm : t.rmg = s.rmg)
    (hx : t.rsp.inProcess = some x) (hl : (entry s x.slot).state = .live)
    (ho : s.rmg.offer = some .rsp → rspAnswer t ≠ none) : PathsAgreeWithTable t := by
  obtain ⟨_, p2, p3, _, p5⟩ := p
  refine ⟨fun y hy => ?_, ?_, ?_, ?_, ?_⟩
  · rw [hx] at hy; cases hy; rw [hs, hl]
  · simpa only [hs, hq] using p2
  · simpa only [hs, hq] using p3
  · rw [hm]; exact ho
  · rw [hm]; exact p5

theorem answerResponse_paths {s : State} (p : PathsAgreeWithTable s) (f : Bool) :
    PathsAgreeWithTable (answerResponse f s) := by
  cases h : s.rsp.inProcess with
  | none => rwa [show answerResponse f s = s by simp only [answerResponse, h]]
  | some x =>
    have hr := answerResponse_rsp (f := f) h
    refine p.responded (fun n => ?_) (by simp) (by simp) (congrArg Rsp.inProcess hr) (p.1 x h)
      (fun _ => by simp [rspAnswer, hr])
    obtain ⟨k, _, he⟩ := answerResponse_entry f s n
    rw [he]

theorem forwardResponse_paths {s : State} (p : PathsAgreeWithTable s) : PathsAgreeWithTable (forwardResponse s) := by
  unfold forwardResponse
  split
  · split
    · exact answerResponse_paths p false
    · exact p
  · exact p

theorem takeMatched_paths {n : Fin 64} {s : State} (p : PathsAgreeWithTable s) (hn : s.rsp.inProcess = none)
    (hl : (entry s n).state = .live) (r : Response) : PathsAgreeWithTable (takeMatched n r s) := by
  obtain ⟨st, d, _, h, _⟩ := takeMatched_placed n r s
  obtain ⟨hq, hm⟩ := takeMatched_frame n r s
  have hs : ∀ m, (entry (takeMatched n r s) m).state = (entry s m).state := fun m => by
    obtain ⟨k, _, he⟩ := takeMatched_entry n r s m
    rw [he]
  obtain ⟨_, _, _, hoffer, _⟩ := id p
  have ho : s.rmg.offer ≠ some .rsp := fun h => hoffer h (by simp [rspAnswer, hn])
  obtain ⟨h, _⟩ | ⟨h, _⟩ := h
  · exact p.responded hs (by rw [hq]) hm h hl (fun h => absurd h ho)
  · exact p.responded hs (by rw [hq]) hm h hl (fun h => absurd h ho)

theorem evaluateRequest_paths {s : State} (p : PathsAgreeWithTable s) (hf : ∃ n, (entry s n).state = .free) (r : Request) :
    PathsAgreeWithTable (evaluateRequest r s) := by
  have h : PathsAgreeWithTable (setTxn (evaluateRequest r s).rqp.inProcess s) := by
    refine p.setTxn (fun x n hx hp => ?_) (fun _ => hf)
    obtain ⟨_, ⟨h, _⟩ | ⟨_, _, h, _⟩⟩ := evaluateRequest_placed r s <;> rw [h] at hx <;> cases hx <;> cases hp
  exact h.congr (by simp) (by simp) (by simp) (by simp)

theorem takenDown_paths {t : RqpTxn} {n : Fin 64} {s : State} (p : PathsAgreeWithTable s) :
    PathsAgreeWithTable (takenDown t n s) := by
  obtain ⟨p1, _, _, p4, p5⟩ := p
  have hr : (takenDown t n s).rsp = s.rsp := by simp [takenDown]
  have hm : (takenDown t n s).rmg = s.rmg := by simp [takenDown]
  refine ⟨fun x hx => ?_, nofun, fun h => absurd rfl h, ?_, ?_⟩
  · rw [hr] at hx
    by_cases hn : x.slot = n
    · obtain ⟨b, k, he⟩ := (entry_takenDown t n s x.slot).2 hn
      rw [he]; rfl
    · rw [(entry_takenDown t n s x.slot).1 hn]; exact p1 x hx
  · rw [hm, rspAnswer_congr hr]; exact p4
  · rw [hm]; exact p5

theorem beginUpstreamOffer_paths {s : State} (p : PathsAgreeWithTable s) : PathsAgreeWithTable (beginUpstreamOffer s) := by
  unfold beginUpstreamOffer
  split
  · obtain ⟨p1, p2, p3, _, _⟩ := p
    refine ⟨p1, p2, p3, fun h => ?_, fun h => ?_⟩
    all_goals
      change nextSource s = _ at h
      unfold nextSource at h
    · show rspAnswer s ≠ none
      rw [← Option.isSome_iff_ne_none]
      split at h <;> simp_all
    · show s.rmg.queue ≠ []
      split at h <;> simp_all
  · exact p

theorem retired_paths {x : RspTxn} {s : State} (p : PathsAgreeWithTable s) (ho : s.rmg.offer = none) :
    PathsAgreeWithTable (retired x s) := by
  obtain ⟨_, p2, p3, _, _⟩ := p
  have hf : ∀ n, (entry s n).state = .free → (entry (retired x s) n).state = .free := fun n hn => by
    rw [entry_retired]; split
    · rfl
    · exact hn
  refine ⟨nofun, fun t n ht hp => hf n (p2 t n (by simpa [retired] using ht) hp), fun h => ?_, fun h => ?_, fun h => ?_⟩
  · obtain ⟨n, hn⟩ := p3 (by simpa [retired] using h)
    exact ⟨n, hf n hn⟩
  · simp [retired, ho] at h
  · simp [retired, ho] at h

/-- No offer in progress: the queue and the pointer are free to change. -/
theorem PathsAgreeWithTable.offerTaken {s : State} (p : PathsAgreeWithTable s) (q : List UpResponse) (g : Source) :
    PathsAgreeWithTable (s.setRmg { queue := q, pointer := g, offer := none }) :=
  ⟨p.1, p.2.1, p.2.2.1, nofun, nofun⟩

theorem Quiet.paths {s : State} (q : Quiet s) : PathsAgreeWithTable s :=
  ⟨fun x h => (by rw [q.rsp] at h; cases h), fun x n h => (by rw [q.rqp] at h; cases h), fun h => absurd q.rqp h,
    fun h => (by rw [q.offer] at h; cases h), fun h => (by rw [q.offer] at h; cases h)⟩

/-- The reports have no part in the agreement. -/
theorem countTaken_paths (i : Input) (x : BitVec 10) {s : State} (p : PathsAgreeWithTable s) :
    PathsAgreeWithTable (countInput x (takeInput i s)).2 :=
  (countInput_moves x _).pat (p.congr rfl rfl rfl rfl)

/-- R3, R4, R8, R177: messages and resets keep the paths in agreement with the table. -/
theorem messages_keep_paths : KeptByMessages PathsAgreeWithTable where
  takeRequest r s p := by
    obtain h | ⟨_, hf, _, h⟩ := takeRequest_cases r s
    · exact h.pat p
    · rw [h]; exact evaluateRequest_paths p hf r
  takeDownstream s p := by
    by_cases h : ∃ t n, s.rqp.inProcess = some t ∧ t.phase = .offered n
    · obtain ⟨t, n, ht, hp⟩ := h
      rw [takeDownstream_eq ht hp]
      exact (makeClaims_moves _).pat (takenDown_paths p)
    · rwa [takeDownstream_none (fun t n ht hp => h ⟨t, n, ht, hp⟩)]
  takeResponse r s p := by
    obtain h | ⟨n, hn, hl, h⟩ := takeResponse_cases r s
    · exact h.pat p
    · rw [h]; exact takeMatched_paths p hn hl r
  beginUpstreamOffer s p := beginUpstreamOffer_paths p
  takeUpstream s p := by
    unfold takeUpstream
    split
    · have p' := p.offerTaken s.rmg.queue .queue
      cases h : s.rsp.inProcess with
      | none => rw [retire_none (by simpa using h)]; exact p'
      | some x =>
        rw [retire_eq (x := x) (by simpa using h)]
        exact (settleRoom_moves _).pat (retired_paths p' rfl)
    · exact (claimAtReport_moves _).pat (p.offerTaken _ _)
    · exact p
  takeReport s p := by
    unfold takeReport
    split
    · unfold takeRqpReport
      dsimp only
      split
      · exact (fenceRequest_moves _).pat (countTaken_paths _ _ p).answered
      · exact (countTaken_paths _ _ p).forwarded
    · exact answerResponse_paths (countTaken_paths _ _ p) _
    · exact p
  linkReset s _ := (linkReset_quiet s).paths
  powerOn s _ := (powerOn_quiet s).paths
  clearWatch s p := by
    have h : PathsAgreeWithTable (watchCleared s) := ((watchCleared_moves p).pat p).congr rfl rfl rfl rfl
    exact (clearWatch_moves s).pat (forwardResponse_paths h.forwarded)

/-! ### LIVE pairs are distinct (R6) -/

/-- R6: LIVE pairs are distinct, and the request in RQP is no duplicate of one. -/
def TableConsistent (s : State) : Prop := LivePairsDistinct s ∧ RequestNotDuplicate s

/-- Where no LIVE entry and no request is new, pairs stay distinct. -/
theorem TableConsistent.kept {s t : State} (h : TableConsistent s)
    (hl : ∀ n, (entry t n).state = .live → (entry s n).state = .live ∧ (entry t n).tag = (entry s n).tag
      ∧ (entry t n).initiator = (entry s n).initiator)
    (hr : ∀ y, t.rqp.inProcess = some y → ∃ x, s.rqp.inProcess = some x ∧ y.req = x.req) : TableConsistent t := by
  refine ⟨fun a b ha hb hi ht => ?_, fun y hy n hn hp => ?_⟩
  · obtain ⟨la, ta, ia⟩ := hl a ha
    obtain ⟨lb, tb, ib⟩ := hl b hb
    exact h.1 a b la lb (by rw [← ia, ← ib, hi]) (by rw [← ta, ← tb, ht])
  · obtain ⟨x, hx, hq⟩ := hr y hy
    obtain ⟨ln, tn, iN⟩ := hl n hn
    exact h.2 x hx n ln ⟨by rw [← iN, hp.1, hq], by rw [← tn, hp.2, hq]⟩

/-- No slot has changed but for its reservation, and no request is new. -/
theorem TableConsistent.reserved {s t : State} (h : TableConsistent s)
    (he : ∀ n, ∃ x ≤ (entry s n).reservation, entry t n = { entry s n with reservation := x })
    (hr : ∀ y, t.rqp.inProcess = some y → ∃ x, s.rqp.inProcess = some x ∧ y.req = x.req) : TableConsistent t :=
  h.kept (fun n hn => by obtain ⟨x, _, he⟩ := he n; rw [he] at hn ⊢; exact ⟨hn, rfl, rfl⟩) hr

/-- No slot has changed, and no request is new. -/
theorem TableConsistent.sameTable {s t : State} (h : TableConsistent s) (he : t.ott = s.ott)
    (hr : ∀ y, t.rqp.inProcess = some y → ∃ x, s.rqp.inProcess = some x ∧ y.req = x.req) : TableConsistent t :=
  h.kept (fun n hn => by rw [entry_congr he] at hn ⊢; exact ⟨hn, rfl, rfl⟩) hr

theorem TableConsistent.answered {s : State} (h : TableConsistent s) : TableConsistent (setTxn none s) :=
  h.sameTable rfl nofun

theorem TableConsistent.forwarded {s : State} (h : TableConsistent s) : TableConsistent (forwardRequest s) := by
  refine h.sameTable (by simp) (fun y hy => ?_)
  rw [forwardRequest_eq] at hy
  obtain ⟨x, hx, rfl⟩ := Option.map_eq_some_iff.1 hy
  exact ⟨x, hx, x.forwarded_req⟩

/-- R6: a request that is evaluated was checked against every LIVE entry. -/
theorem evaluateRequest_table {r : Request} {s : State} (h : TableConsistent s) (hf : PairFree r s) :
    TableConsistent (evaluateRequest r s) := by
  have he : ∀ n, entry (evaluateRequest r s) n = entry s n := fun n => by simp
  refine ⟨by simpa only [LivePairsDistinct, he] using h.1, fun t ht n hn => ?_⟩
  have hr : t.req = r := by
    obtain ⟨_, ⟨h, _⟩ | ⟨_, _, h, _⟩⟩ := evaluateRequest_placed r s <;> rw [h] at ht <;> cases ht <;> rfl
  rw [he] at hn ⊢
  rw [hr]
  exact hf n hn

/-- R5, R6: the allocated entry holds the pair of the request, which no LIVE entry held. -/
theorem takenDown_table {t : RqpTxn} {n : Fin 64} {s : State} (h : TableConsistent s) (ht : s.rqp.inProcess = some t) :
    TableConsistent (takenDown t n s) := by
  have hother : ∀ m, m ≠ n → (entry (takenDown t n s) m).state = .live →
      ¬ ((entry (takenDown t n s) m).initiator = t.req.initiator ∧ (entry (takenDown t n s) m).tag = t.req.tag) :=
    fun m hm hl => by rw [(entry_takenDown t n s m).1 hm] at hl ⊢; exact h.2 t ht m hl
  have hself : (entry (takenDown t n s) n).initiator = t.req.initiator ∧ (entry (takenDown t n s) n).tag = t.req.tag := by
    obtain ⟨b, k, he⟩ := (entry_takenDown t n s n).2 rfl
    rw [he]; exact ⟨rfl, rfl⟩
  refine ⟨fun a b ha hb hi htag => ?_, nofun⟩
  by_cases hna : a = n <;> by_cases hnb : b = n
  · rw [hna, hnb]
  · subst hna; exact absurd ⟨hi.symm.trans hself.1, htag.symm.trans hself.2⟩ (hother b hnb hb)
  · subst hnb; exact absurd ⟨hi.trans hself.1, htag.trans hself.2⟩ (hother a hna ha)
  · rw [(entry_takenDown t n s a).1 hna] at ha hi htag
    rw [(entry_takenDown t n s b).1 hnb] at hb hi htag
    exact h.1 a b ha hb hi htag

theorem Quiet.table {s : State} (q : Quiet s) : TableConsistent s :=
  ⟨fun a _ h => (by rw [q.slots] at h; cases h), fun _ _ n h => (by rw [q.slots] at h; cases h)⟩

theorem countTaken_table (i : Input) (x : BitVec 10) {s : State} (h : TableConsistent s) :
    TableConsistent (countInput x (takeInput i s)).2 :=
  (countInput_moves x _).table (h.sameTable rfl (fun y hy => ⟨y, hy, rfl⟩))

/-- A response changes no slot but its reservation, and no request. -/
theorem answerResponse_table {s : State} (h : TableConsistent s) (f : Bool) : TableConsistent (answerResponse f s) :=
  h.reserved (answerResponse_entry f s) (fun y hy => ⟨y, by simpa using hy, rfl⟩)

theorem messages_keep_table : KeptByMessages (fun s => TableConsistent s ∧ PathsAgreeWithTable s) where
  takeRequest r s h := by
    refine ⟨?_, messages_keep_paths.takeRequest r s h.2⟩
    obtain m | ⟨_, _, hf, e⟩ := takeRequest_cases r s
    · exact m.table h.1
    · rw [e]; exact evaluateRequest_table h.1 hf
  takeDownstream s h := by
    refine ⟨?_, messages_keep_paths.takeDownstream s h.2⟩
    by_cases ho : ∃ t n, s.rqp.inProcess = some t ∧ t.phase = .offered n
    · obtain ⟨t, n, ht, hp⟩ := ho
      rw [takeDownstream_eq ht hp]
      exact (makeClaims_moves _).table (takenDown_table h.1 ht)
    · rw [takeDownstream_none (fun t n ht hp => ho ⟨t, n, ht, hp⟩)]; exact h.1
  takeResponse r s h := by
    refine ⟨?_, messages_keep_paths.takeResponse r s h.2⟩
    obtain m | ⟨n, _, _, e⟩ := takeResponse_cases r s
    · exact m.table h.1
    · rw [e]
      exact h.1.reserved (takeMatched_entry n r s) (fun y hy => ⟨y, by rwa [(takeMatched_frame n r s).1] at hy, rfl⟩)
  beginUpstreamOffer s h := by
    refine ⟨h.1.sameTable ?_ (fun y hy => ⟨y, ?_, rfl⟩), messages_keep_paths.beginUpstreamOffer s h.2⟩
    · unfold beginUpstreamOffer; split <;> rfl
    · unfold beginUpstreamOffer at hy; split at hy <;> exact hy
  takeUpstream s h := by
    refine ⟨?_, messages_keep_paths.takeUpstream s h.2⟩
    unfold takeUpstream
    split
    · cases hx : s.rsp.inProcess with
      | none => rw [retire_none (by simpa using hx)]; exact h.1
      | some x =>
        rw [retire_eq (x := x) (by simpa using hx)]
        refine (settleRoom_moves _).table (h.1.kept (fun n hn => ?_) (fun y hy => ⟨y, by simpa [retired] using hy, rfl⟩))
        rw [entry_retired] at hn ⊢
        split at hn
        · cases hn
        · rename_i hne; rw [if_neg hne]; exact ⟨hn, rfl, rfl⟩
    · exact (claimAtReport_moves _).table h.1
    · exact h.1
  takeReport s h := by
    refine ⟨?_, messages_keep_paths.takeReport s h.2⟩
    unfold takeReport
    split
    · unfold takeRqpReport
      dsimp only
      split
      · exact (fenceRequest_moves _).table (countTaken_table _ _ h.1).answered
      · exact (countTaken_table _ _ h.1).forwarded
    · exact answerResponse_table (countTaken_table _ _ h.1) _
    · exact h.1
  linkReset s _ := ⟨(linkReset_quiet s).table, (linkReset_quiet s).paths⟩
  powerOn s _ := ⟨(powerOn_quiet s).table, (powerOn_quiet s).paths⟩
  clearWatch s h := by
    refine ⟨?_, messages_keep_paths.clearWatch s h.2⟩
    have hw : TableConsistent (watchCleared s) :=
      TableConsistent.sameTable ((watchCleared_moves h.2).table h.1) rfl (fun y hy => ⟨y, hy, rfl⟩)
    refine (clearWatch_moves s).table ?_
    unfold forwardResponse
    split
    · split
      · exact answerResponse_table hw.forwarded false
      · exact hw.forwarded
    · exact hw.forwarded

/-- Settles O55: the LIVE pairs stay distinct along moves; a request is checked when it is taken (R6) and takes its pair
into the table when it leaves RQP (R5). -/
theorem everyStepKeepsTheTableConsistent : Obligations.EveryStepKeepsTheTableConsistent := by
  intro s t ⟨hl, hr, hp⟩ h
  have k := messages_keep_table.operations (fun _ h => h.2) (fun _ _ m h => ⟨m.table h.1, m.pat h.2⟩)
  exact (k.step ⟨⟨hl, hr⟩, hp⟩ h).1

end Sys2Proof.Machine
namespace Sys2Proof.Machine

/-! ### Reports agree with the paths, and responses are well formed (R51, R163) -/

/-- R51, R163: the report latches agree with the paths, and the responses are well formed. -/
def ReportsAndResponses (s : State) : Prop := ReportsAgreeWithPaths s ∧ ResponsesWellFormed s

/-- Only slots, RSP, the queue, the reports and the request in process count. -/
theorem ReportsAndResponses.congr {s t : State} (h : ReportsAndResponses s) (h1 : t.ott = s.ott) (h2 : t.rsp = s.rsp)
    (h3 : t.rmg.queue = s.rmg.queue) (h4 : t.rqp.inProcess = s.rqp.inProcess)
    (h5 : t.tsq.rqpReport = s.tsq.rqpReport) (h6 : t.tsq.rspReport = s.tsq.rspReport) : ReportsAndResponses t := by
  simpa only [ReportsAndResponses, ReportsAgreeWithPaths, ResponsesWellFormed, entry_congr h1, h2, h3, h4, h5, h6]
    using h

/-- A request that waits for a verdict is gone or has its verdict, and its report has left the latch. -/
theorem ReportsAndResponses.setTxn {s : State} (h : ReportsAndResponses s) {o : Option RqpTxn} {y : Tsq}
    (ho : ∀ x, o = some x → x.phase ≠ .verdictWait) (h1 : y.rqpReport = none) (h2 : y.rspReport = s.tsq.rspReport) :
    ReportsAndResponses (Machine.setTxn o (s.setTsq y)) := by
  obtain ⟨⟨_, _, q3, q4⟩, r⟩ := h
  refine ⟨⟨fun k hk => ?_, fun x hx hp => absurd hp (ho x hx), fun k hk => ?_, fun x hx hp => ?_⟩,
    by simpa [ResponsesWellFormed] using r⟩
  · exact absurd (h1.symm.trans hk) nofun
  · exact q3 k (h2.symm.trans hk)
  · exact fun hn => q4 x hx hp (h2.symm.trans hn)

theorem ReportsAndResponses.forwarded {s : State} (h : ReportsAndResponses s) {y : Tsq} (h1 : y.rqpReport = none)
    (h2 : y.rspReport = s.tsq.rspReport) : ReportsAndResponses (forwardRequest (s.setTsq y)) := by
  rw [forwardRequest_eq]
  refine h.setTxn (fun x hx => ?_) h1 h2
  obtain ⟨z, _, rfl⟩ := Option.map_eq_some_iff.1 hx
  exact z.forwarded_phase

/-- A response in RSP that does not wait for a verdict, no report of RSP, and RQP as it was. -/
theorem ReportsAndResponses.responded {s t : State} {x : RspTxn} (h : ReportsAndResponses s)
    (he : ∀ n, ∃ k ≤ (entry s n).reservation, entry t n = { entry s n with reservation := k })
    (hq : t.rqp.inProcess = s.rqp.inProcess) (hm : t.rmg = s.rmg) (h1 : t.tsq.rqpReport = s.tsq.rqpReport)
    (hx : t.rsp.inProcess = some x)
    (hr : (x.phase = .verdictWait ∧ ∃ k, k ≠ 0 ∧ t.tsq.rspReport = some k)
      ∨ (t.tsq.rspReport = none ∧ ∃ f, x.phase = .offered (upstreamAnswer (entry s x.slot) x f)))
    (hd : x.data.length = expectedBeats (entry s x.slot).kind (entry s x.slot).lenM1 x.status) :
    ReportsAndResponses t := by
  obtain ⟨⟨q1, q2, _, _⟩, r1, _, _⟩ := h
  obtain ⟨k, _, hk⟩ := he x.slot
  refine ⟨⟨by simpa only [h1, hq] using q1, by simpa only [h1, hq] using q2, fun k hk => ?_, fun y hy hp => ?_⟩,
    by simpa only [hm] using r1, fun y hy => ?_, fun y a hy hp => ?_⟩
  · obtain ⟨hp, k', h0, hk'⟩ | ⟨hn, _⟩ := hr
    · rw [hk] at hk'; cases hk'
      exact ⟨h0, x, hx, hp⟩
    · rw [hn] at hk; cases hk
  · rw [hx] at hy; cases hy
    obtain ⟨_, k', _, hk'⟩ | ⟨_, f, hf⟩ := hr
    · rw [hk']; nofun
    · rw [hp] at hf; cases hf
  · rw [hx] at hy; cases hy
    rw [hk]; exact hd
  · rw [hx] at hy; cases hy
    obtain ⟨hv, _⟩ | ⟨_, f, hf⟩ := hr
    · rw [hp] at hv; cases hv
    · rw [hp] at hf; cases hf
      rw [hk]
      cases f
      · exact .inl rfl
      · exact .inr rfl

/-- R174: RSP's report has left the latch and is answered. -/
theorem answerResponse_reports {s : State} (h : ReportsAndResponses s) (f : Bool) {y : Tsq}
    (h1 : y.rqpReport = s.tsq.rqpReport) (h2 : y.rspReport = none) :
    ReportsAndResponses (answerResponse f (s.setTsq y)) := by
  cases hx : s.rsp.inProcess with
  | none =>
    rw [show answerResponse f (s.setTsq y) = s.setTsq y by simp only [answerResponse, State.setTsq_rsp, hx]]
    obtain ⟨⟨q1, q2, _, _⟩, r⟩ := h
    refine ⟨⟨fun k hk => q1 k (h1.symm.trans hk), fun x hx hp => h1.trans (q2 x hx hp), fun k hk => ?_,
      fun x hy => ?_⟩, r⟩
    · exact absurd (h2.symm.trans hk) nofun
    · exact absurd (hx.symm.trans hy) nofun
  | some x =>
    have hr := answerResponse_rsp (f := f) (s := s.setTsq y) hx
    refine h.responded (fun n => answerResponse_entry f (s.setTsq y) n) (by simp) (by simp) (by simp [h1])
      (congrArg Rsp.inProcess hr) (.inr ⟨by simp [h2], f, rfl⟩) (h.2.2.1 x hx)

/-- R70: RSP's waiting report has left the latch and is answered FORWARD. -/
theorem forwardResponse_reports {s : State} (h : ReportsAndResponses s) {y : Tsq}
    (h1 : y.rqpReport = s.tsq.rqpReport) (h2 : y.rspReport = none) : ReportsAndResponses (forwardResponse (s.setTsq y)) := by
  have keep (hn : ∀ x, s.rsp.inProcess = some x → x.phase ≠ .verdictWait) : ReportsAndResponses (s.setTsq y) := by
    obtain ⟨⟨q1, q2, _, _⟩, r⟩ := h
    refine ⟨⟨fun k hk => q1 k (h1.symm.trans hk), fun x hx hp => h1.trans (q2 x hx hp), fun k hk => ?_,
      fun x hx hp => absurd hp (hn x hx)⟩, r⟩
    exact absurd (h2.symm.trans hk) nofun
  unfold forwardResponse
  split
  · rename_i x hx
    split
    · exact answerResponse_reports h false h1 h2
    · rename_i hp
      refine keep (fun z hz => ?_)
      rw [State.setTsq_rsp, hz] at hx; cases hx
      exact hp
  · rename_i hx
    exact keep (fun z hz => absurd (hx.symm.trans hz) nofun)

theorem takeMatched_reports {n : Fin 64} {s : State} (h : ReportsAndResponses s) (hn : s.rsp.inProcess = none)
    (r : Response) : ReportsAndResponses (takeMatched n r s) := by
  obtain ⟨st, d, hd, hx, h1⟩ := takeMatched_placed n r s
  obtain ⟨hq, hm⟩ := takeMatched_frame n r s
  have hnone : s.tsq.rspReport = none := by
    cases hk : s.tsq.rspReport with
    | none => rfl
    | some k =>
      obtain ⟨⟨_, _, hreport, _⟩, _⟩ := h
      obtain ⟨_, t, ht, _⟩ := hreport k hk
      rw [hn] at ht; cases ht
  obtain ⟨hx, hr⟩ | ⟨hx, k, h0, hr⟩ := hx
  · exact h.responded (takeMatched_entry n r s) (by rw [hq]) hm h1 hx (.inr ⟨hr.trans hnone, false, rfl⟩) hd
  · exact h.responded (takeMatched_entry n r s) (by rw [hq]) hm h1 hx (.inl ⟨rfl, k, h0, hr⟩) hd

/-- R29, R51: a request enters an empty RQP. -/
theorem evaluateRequest_reports {s : State} (h : ReportsAndResponses s) (hn : s.rqp.inProcess = none) (r : Request) :
    ReportsAndResponses (evaluateRequest r s) := by
  obtain ⟨h6, hp⟩ := evaluateRequest_placed r s
  obtain ⟨⟨q1, q2, q3, q4⟩, w⟩ := h
  have hnone : s.tsq.rqpReport = none := by
    cases hk : s.tsq.rqpReport with
    | none => rfl
    | some k =>
      obtain ⟨_, t, ht, _⟩ := q1 k hk
      rw [hn] at ht; cases ht
  have he : ∀ n, entry (evaluateRequest r s) n = entry s n := fun n => by simp
  have hr : (evaluateRequest r s).rsp = s.rsp := by simp
  have hm : (evaluateRequest r s).rmg = s.rmg := by simp
  refine ⟨⟨fun k hk => ?_, fun x hx hv => ?_, by simpa only [hr, h6] using q3, by simpa only [hr, h6] using q4⟩,
    by simpa only [ResponsesWellFormed, he, hr, hm] using w⟩
  · obtain ⟨_, h5⟩ | ⟨k', h0, hx, h5⟩ := hp
    · rw [h5, hnone] at hk; cases hk
    · rw [h5] at hk; cases hk
      exact ⟨h0, _, hx, rfl, rfl⟩
  · obtain ⟨hx', _⟩ | ⟨k', _, hx', h5⟩ := hp <;> rw [hx] at hx' <;> cases hx'
    · cases hv
    · exact h5

/-- R5, R170: the allocated slot was FREE, so it is not that of a response in process. -/
theorem takenDown_reports {t : RqpTxn} {n : Fin 64} {s : State} (p : PathsAgreeWithTable s) (h : ReportsAndResponses s)
    (ht : s.rqp.inProcess = some t) (hp : t.phase = .offered n) : ReportsAndResponses (takenDown t n s) := by
  have hr : (takenDown t n s).rsp = s.rsp := by simp [takenDown]
  have hm : (takenDown t n s).rmg = s.rmg := by simp [takenDown]
  have hs : (takenDown t n s).tsq = s.tsq := by simp [takenDown]
  have he : ∀ x, s.rsp.inProcess = some x → entry (takenDown t n s) x.slot = entry s x.slot := fun x hx => by
    refine (entry_takenDown t n s x.slot).1 (fun hn => ?_)
    have hf := p.2.1 t n ht hp
    rw [← hn, p.1 x hx] at hf; cases hf
  obtain ⟨⟨q1, _, q3, q4⟩, r1, r2, r3⟩ := h
  refine ⟨⟨fun k hk => ?_, nofun, by simpa only [hr, hs] using q3, by simpa only [hr, hs] using q4⟩,
    by simpa only [hm] using r1, fun x hx => ?_, fun x a hx ha => ?_⟩
  · rw [hs] at hk
    obtain ⟨_, x, hx, hv, _⟩ := q1 k hk
    rw [ht] at hx; cases hx
    rw [hp] at hv; cases hv
  · rw [hr] at hx; rw [he x hx]; exact r2 x hx
  · rw [hr] at hx; rw [he x hx]; exact r3 x a hx ha

/-- R9, R177: the response that retires was offered, so no report of RSP waits. -/
theorem retired_reports {x : RspTxn} {s : State} (h : ReportsAndResponses s) (hx : s.rsp.inProcess = some x)
    (hp : x.phase ≠ .verdictWait) : ReportsAndResponses (retired x s) := by
  obtain ⟨⟨q1, q2, q3, _⟩, r1, _, _⟩ := h
  have hq : (retired x s).rqp = s.rqp := by simp [retired]
  have hs : (retired x s).tsq = s.tsq := by simp [retired]
  have hm : (retired x s).rmg = s.rmg := by simp [retired]
  refine ⟨⟨by simpa only [hq, hs] using q1, by simpa only [hq, hs] using q2, fun k hk => ?_, nofun⟩,
    by simpa only [hm] using r1, nofun, nofun⟩
  rw [hs] at hk
  obtain ⟨_, y, hy, hv⟩ := q3 k hk
  rw [hx] at hy; cases hy
  exact absurd hv hp

theorem Quiet.reports {s : State} (q : Quiet s) : ReportsAndResponses s :=
  ⟨⟨fun k h => (by rw [q.rqpReport] at h; cases h), fun x h => (by rw [q.rqp] at h; cases h),
    fun k h => (by rw [q.rspReport] at h; cases h), fun x h => (by rw [q.rsp] at h; cases h)⟩,
   fun r h => (by rw [q.queue] at h; cases h), fun x h => (by rw [q.rsp] at h; cases h),
   fun x a h => (by rw [q.rsp] at h; cases h)⟩

/-- R54, R55: a report is counted with the latches put aside; then its latch is empty. -/
theorem countTaken_reports_kept (i : Input) (x : BitVec 10) {s : State} (h : ReportsAndResponses s) :
    ReportsAndResponses ((countInput x (takeInput i s)).2.setTsq s.tsq) :=
  (countTaken_moves_latched i x s).rep h

theorem takeReport_reports {s : State} (h : ReportsAndResponses s) : ReportsAndResponses (takeReport s) := by
  unfold takeReport
  split
  · have hk := countTaken_reports_kept .rqpReport (reportSources (s.tsq.rqpReport.getD 0)) h
    obtain ⟨h1, h2⟩ := countTaken_reports .rqpReport (reportSources (s.tsq.rqpReport.getD 0)) s
    unfold takeRqpReport
    dsimp only
    split
    · exact (fenceRequest_moves _).rep (hk.setTxn (o := none) nofun h1 h2)
    · exact hk.forwarded h1 h2
  · obtain ⟨h1, h2⟩ := countTaken_reports .rspReport (reportSources (s.tsq.rspReport.getD 0)) s
    exact answerResponse_reports (countTaken_reports_kept .rspReport _ h) _ h1 h2
  · exact h

/-- R70, R195: CLEAR_WATCH empties both latches and answers what waited. -/
theorem clearWatch_reports {s : State} (p : PathsAgreeWithTable s) (h : ReportsAndResponses s) :
    ReportsAndResponses (clearWatch s) := by
  refine (clearWatch_moves s).rep ?_
  have h0 : ReportsAndResponses ((watchCleared s).setTsq s.tsq) := (watchCleared_moves p).rep h
  have hf := h0.forwarded (y := { s.tsq with rqpReport := none }) rfl rfl
  have hr := forwardResponse_reports hf (y := clearTsq s.tsq) (by simp [clearTsq]) rfl
  have hsame : forwardRequest (watchCleared s) = (forwardRequest (((watchCleared s).setTsq s.tsq).setTsq
      { s.tsq with rqpReport := none })).setTsq (clearTsq s.tsq) := by
    rw [← watchCleared_tsq, forwardRequest_eq, forwardRequest_eq]
    exact rfl
  rw [hsame]
  exact hr

theorem messages_keep_reports : KeptByMessages (fun s => PathsAgreeWithTable s ∧ ReportsAndResponses s) where
  takeRequest r s h := by
    refine ⟨messages_keep_paths.takeRequest r s h.1, ?_⟩
    obtain m | ⟨hn, _, _, e⟩ := takeRequest_cases r s
    · exact m.rep h.2
    · rw [e]; exact evaluateRequest_reports h.2 hn r
  takeDownstream s h := by
    refine ⟨messages_keep_paths.takeDownstream s h.1, ?_⟩
    by_cases ho : ∃ t n, s.rqp.inProcess = some t ∧ t.phase = .offered n
    · obtain ⟨t, n, ht, hp⟩ := ho
      rw [takeDownstream_eq ht hp]
      exact (makeClaims_moves _).rep (takenDown_reports h.1 h.2 ht hp)
    · rw [takeDownstream_none (fun t n ht hp => ho ⟨t, n, ht, hp⟩)]; exact h.2
  takeResponse r s h := by
    refine ⟨messages_keep_paths.takeResponse r s h.1, ?_⟩
    obtain m | ⟨n, hn, _, e⟩ := takeResponse_cases r s
    · exact m.rep h.2
    · rw [e]; exact takeMatched_reports h.2 hn r
  beginUpstreamOffer s h := by
    refine ⟨messages_keep_paths.beginUpstreamOffer s h.1, ?_⟩
    unfold beginUpstreamOffer
    split
    · exact h.2.congr rfl rfl rfl rfl rfl rfl
    · exact h.2
  takeUpstream s h := by
    refine ⟨messages_keep_paths.takeUpstream s h.1, ?_⟩
    unfold takeUpstream
    split
    · rename_i ho
      have hs : ReportsAndResponses (s.setRmg { s.rmg with pointer := .queue, offer := none }) :=
        h.2.congr rfl rfl rfl rfl rfl rfl
      obtain ⟨_, _, _, hoffer, _⟩ := h.1
      have ha : rspAnswer s ≠ none := hoffer ho
      cases hx : s.rsp.inProcess with
      | none => rw [retire_none (by simpa using hx)]; exact hs
      | some x =>
        rw [retire_eq (x := x) (by simpa using hx)]
        refine (settleRoom_moves _).rep (retired_reports hs hx (fun hv => ha ?_))
        simp only [rspAnswer, hx, hv]
    · obtain ⟨_, hreports, hqueue, hrest⟩ := h
      exact (claimAtReport_moves _).rep ⟨hreports, fun r hr => hqueue r (List.mem_of_mem_tail hr), hrest⟩
    · exact h.2
  takeReport s h := ⟨messages_keep_paths.takeReport s h.1, takeReport_reports h.2⟩
  linkReset s _ := ⟨(linkReset_quiet s).paths, (linkReset_quiet s).reports⟩
  powerOn s _ := ⟨(powerOn_quiet s).paths, (powerOn_quiet s).reports⟩
  clearWatch s h := ⟨messages_keep_paths.clearWatch s h.1, clearWatch_reports h.1 h.2⟩

/-- Settles O56: paths, reports and responses follow along moves; each message is placed, answered and retired with its
report and its slot. -/
theorem everyStepKeepsThePathsConsistent : Obligations.EveryStepKeepsThePathsConsistent := by
  intro s t h ht
  exact (messages_keep_reports.operations (fun _ h => h.1) (fun _ _ m h => ⟨m.pat h.1, m.rep h.2⟩)).step h ht

end Sys2Proof.Machine
/-! PROOFS. The bound of the trace store and the trace fields of the slots (R19, R24, R115, R122, R123): every step
keeps them. -/
namespace Sys2Proof.Machine

/-! ### Fill, reservations and claim fit the store -/

/-- R133, R135: what is left in the store is no more than was there. -/
theorem StoreWithinBound.ofFill {s t : State} (h : StoreWithinBound s) (hf : fill t ≤ fill s) (ho : t.ott = s.ott)
    (hm : t.tst.mode = s.tst.mode) (hc : t.tcu.capture = s.tcu.capture) : StoreWithinBound t :=
  store_le (by rw [reserved_congr ho]; omega) (Nat.le_of_eq (reserved_congr ho)) (by unfold modeOf; rw [hm]) (.inl hc) h

/-- R114, R136: no reservation and no claim: the mode is free to change. -/
theorem StoreWithinBound.ofReleased {s t : State} (h : StoreWithinBound s) (hf : fill t ≤ fill s)
    (hr : ∀ n, (entry t n).reservation = 0) (hc : t.tcu.capture = none) : StoreWithinBound t := by
  have hz : reserved t = 0 := reserved_eq_zero hr
  have hcl : claim t = 0 := by simp [claim, hc]
  obtain ⟨h1, _, _⟩ := h
  exact ⟨by omega, fun _ => ⟨hz, hcl⟩, fun c hx => by rw [hc] at hx; cases hx⟩

/-- R1: timeout, policy and purge count have no part in the bound. -/
theorem StoreWithinBound.settings {s : State} (h : StoreWithinBound s) {x : Ott} (hx : x.slots = s.ott.slots) :
    StoreWithinBound (s.setOtt x) := by
  have hr : reserved (s.setOtt x) = reserved s := reserved_congr_entries (fun n => by simp [entry, hx])
  exact store_le (Nat.le_of_eq (by rw [hr, fill_congr (s := s) (t := s.setOtt x) rfl])) (Nat.le_of_eq hr) rfl (.inl rfl) h

theorem passHoldPoint_store {s : State} (h : StoreWithinBound s) : StoreWithinBound (passHoldPoint s) := by
  unfold passHoldPoint
  split
  · rename_i t _
    split
    · refine settleRoom_store ?_
      by_cases hd : t.decided = true
      · rw [if_pos hd]
        exact store_same rfl rfl rfl h
      · rw [if_neg hd]
        exact store_same (s := decideCapture t s) rfl rfl rfl (decideCapture_store t h)
    · exact h
  · exact h

theorem takenDown_store {t : RqpTxn} {n : Fin 64} {s : State} (h : StoreWithinBound s) :
    StoreWithinBound (takenDown t n s) := by
  have ha : StoreWithinBound (setEntry n (allocated t.req s.tbs.timestamp (entry s n)) s) :=
    setEntry_store (Nat.zero_le _) h
  exact store_same rfl rfl rfl (placeRequest_store t.req n (by rw [entry_setEntry_self]; rfl) ha)

theorem evaluateResponse_store (n : Fin 64) (st : DownStatus) (d : List BeatData) {s : State} (h : StoreWithinBound s) :
    StoreWithinBound (evaluateResponse n st d s) := by
  unfold evaluateResponse
  dsimp only
  split
  · exact answerResponse_store false (store_same rfl rfl rfl h)
  · exact store_same rfl rfl rfl h

theorem takeMatched_store (n : Fin 64) (r : Response) {s : State} (h : StoreWithinBound s) :
    StoreWithinBound (takeMatched n r s) := by
  unfold takeMatched
  dsimp only
  split
  · exact evaluateResponse_store _ _ _ (store_same rfl rfl rfl h)
  · exact evaluateResponse_store _ _ _ (takeAnomaly_store _ (store_same rfl rfl rfl h))

theorem takeLate_store (n : Fin 64) {s : State} (h : StoreWithinBound s) : StoreWithinBound (takeLate n s) :=
  takeAnomaly_store _ (setEntry_store (Nat.zero_le _) h)

theorem answerProtocol_store (r : Request) (a : Anomaly) {s : State} (h : StoreWithinBound s) :
    StoreWithinBound (answerProtocol r a s) := takeAnomaly_store a (store_same rfl rfl rfl h)

theorem evaluateRequest_store (r : Request) {s : State} (h : StoreWithinBound s) : StoreWithinBound (evaluateRequest r s) :=
  store_same (by simp) (by simp) (by simp) h

theorem takeRequest_store (r : Request) {s : State} (h : StoreWithinBound s) : StoreWithinBound (takeRequest r s) := by
  unfold takeRequest
  split
  · split
    · exact answerProtocol_store _ _ h
    · split
      · exact answerProtocol_store _ _ h
      · exact evaluateRequest_store r h
  · exact h

theorem takeResponse_store (r : Response) {s : State} (h : StoreWithinBound s) : StoreWithinBound (takeResponse r s) := by
  unfold takeResponse
  split
  · split
    · exact takeMatched_store _ r h
    · exact takeLate_store _ h
    · exact takeAnomaly_store _ h
  · exact h

/-- R98: the records of a fenced request come without a reservation. -/
theorem fencedRecords_store (t : RqpTxn) {s : State} (h : StoreWithinBound s) : StoreWithinBound (fencedRecords t s) := by
  have hf := offerRecord_store (requestFull t.req (withFirstBeat t.req s) true slotNone s.tbs.timestamp) .unbacked
    (some (t.req.addr, t.req.context)) s nofun h
  unfold fencedRecords
  dsimp only
  split
  · exact offerEvent_store _ hf
  · exact hf

theorem fenceRequest_store {s : State} (h : StoreWithinBound s) : StoreWithinBound (fenceRequest s) := by
  unfold fenceRequest
  split
  · have ha : ∀ a, StoreWithinBound (enqueue a (setTxn none s)) := fun _ => store_same rfl rfl rfl h
    dsimp only
    split
    · exact fencedRecords_store _ (ha _)
    · exact ha _
  · exact h

theorem forwardRequest_store {s : State} (h : StoreWithinBound s) : StoreWithinBound (forwardRequest s) :=
  store_same (by simp) (by simp) (by simp) h

theorem countTaken_store (i : Input) (x : BitVec 10) {s : State} (h : StoreWithinBound s) :
    StoreWithinBound (countInput x (takeInput i s)).2 := countInput_store x (store_same rfl rfl rfl h)

theorem takeReport_store {s : State} (h : StoreWithinBound s) : StoreWithinBound (takeReport s) := by
  unfold takeReport
  split
  · unfold takeRqpReport
    dsimp only
    split
    · exact fenceRequest_store (countTaken_store _ _ h)
    · exact forwardRequest_store (countTaken_store _ _ h)
  · exact answerResponse_store _ (countTaken_store _ _ h)
  · exact h

theorem takeUpstream_store {s : State} (h : StoreWithinBound s) : StoreWithinBound (takeUpstream s) := by
  unfold takeUpstream
  split
  · unfold retire
    split
    · refine settleRoom_store (store_same (State.setRsp_ott _ _) rfl rfl ?_)
      exact setEntry_store (Nat.zero_le _) (store_same rfl rfl rfl h)
    · exact store_same rfl rfl rfl h
  · exact claimAtReport_store (store_same rfl rfl rfl h)
  · exact h

theorem takeDwell_store {s : State} (h : StoreWithinBound s) : StoreWithinBound (takeDwell s) := by
  have ht : StoreWithinBound (takeInput .dwell s) := store_same rfl rfl rfl h
  unfold takeDwell
  dsimp only
  split
  · split
    · exact transition_store _ _ _ ht
    · exact ht
  · exact h

theorem takeArmCommand_store {s : State} (h : StoreWithinBound s) : StoreWithinBound (takeArmCommand s) := by
  unfold takeArmCommand
  dsimp only
  split
  · exact offerEvent_store _ (store_same rfl rfl rfl h)
  · exact h

theorem takeDisarmCommand_store {s : State} (h : StoreWithinBound s) : StoreWithinBound (takeDisarmCommand s) := by
  unfold takeDisarmCommand
  dsimp only
  split
  · split
    · exact store_same rfl rfl rfl h
    all_goals exact offerEvent_store _ (store_same rfl rfl rfl h)
  · exact h

theorem expireReport_store (n : Fin 64) {s : State} (h : StoreWithinBound s) : StoreWithinBound (expireReport n s) := by
  unfold expireReport
  split
  · exact takeAnomaly_store _ (setEntry_store (Nat.le_refl _) h)
  · exact h

theorem ottTick_store {s : State} (h : StoreWithinBound s) : StoreWithinBound (ottTick s) := by
  have ha : StoreWithinBound (mapEntries Entry.aged s) := mapEntries_store (fun e => by unfold Entry.aged; split <;> simp) h
  unfold ottTick
  dsimp only
  split
  · exact foldl_kept (fun t n => expireReport n t) StoreWithinBound (fun _ n => expireReport_store n) _ _ ha
  · exact makeClaims_store ha

theorem rqpTick_store {s : State} (h : StoreWithinBound s) : StoreWithinBound (rqpTick s) := by
  unfold rqpTick
  dsimp only
  split
  · split
    · exact settleRoom_store (store_same rfl rfl rfl h)
    · exact store_same rfl rfl rfl h
  · exact h

theorem tickEvent_store {s : State} (h : StoreWithinBound s) : StoreWithinBound (tickEvent s) := by
  have ho := rqpTick_store (ottTick_store (s := s.setTbs { s.tbs with prescale := 0, timestamp := s.tbs.timestamp + 1 })
    (store_same rfl rfl rfl h))
  exact store_same (by simp [tickEvent]) (by simp [tickEvent]) (by simp [tickEvent]) ho

/-- R133: the oldest record goes from the sequence into transmission. -/
theorem fill_beginRecord (s : State) : fill (beginRecord s) = fill s := by
  unfold beginRecord
  split
  · rename_i r rs htx hr
    split
    · simp [fill, egressTail, htx, hr, slotsOf]; omega
    · rfl
  · rfl

theorem beginRecord_mode (s : State) : (beginRecord s).tst.mode = s.tst.mode := by
  unfold beginRecord
  split
  · split <;> rfl
  · rfl

/-- R135: a slot is freed, and room wait settled. -/
theorem freeSlot_store {s : State} (h : StoreWithinBound s) : StoreWithinBound (freeSlot s) := by
  unfold freeSlot
  split
  · rename_i x hx
    refine settleRoom_store (h.ofFill ?_ rfl rfl rfl)
    simp only [fill, egressTail, hx, State.setTst_tst]
    split
    · rename_i y hy
      split at hy <;> cases hy
      simp only; omega
    · omega
  · exact h

theorem passByte_store {s : State} {x : Transmission} (h : StoreWithinBound s) (hx : s.tst.tx = some x) :
    StoreWithinBound (s.setTst { s.tst with tx := some { x with bytePos := x.bytePos + 1 } }) :=
  h.ofFill (by simp [fill, egressTail, hx]) rfl rfl rfl

theorem slotsOf_drop_le (k : Nat) (rs : List Record) : slotsOf (rs.drop k) ≤ slotsOf rs := by
  have := slotsOf_append (rs.take k) (rs.drop k)
  rw [List.take_append_drop] at this
  omega

/-- R131: the records leave from the oldest end; the rest of the store and the capture in hand stay. -/
theorem removeRead_left (n : Nat) (s : State) :
    (removeRead n s).tst = { s.tst with
        records := s.tst.records.drop n, snapshot := none, stopped := if n = 0 then s.tst.stopped else false }
      ∧ (removeRead n s).tcu.capture = s.tcu.capture := by
  unfold removeRead
  dsimp only
  (repeat' split) <;> exact ⟨rfl, rfl⟩

theorem removeRead_store (n : Nat) {s : State} (h : StoreWithinBound s) : StoreWithinBound (removeRead n s) := by
  obtain ⟨ht, hc⟩ := removeRead_left n s
  refine h.ofFill ?_ (by simp) (by rw [ht]) hc
  have := slotsOf_drop_le n s.tst.records
  simp only [fill, egressTail, ht]
  omega

/-- R179: with the traffic the reservations and the claim are gone. -/
theorem linkReset_store {s : State} (h : StoreWithinBound s) : StoreWithinBound (linkReset s) := by
  refine offerEvent_store _ (h.ofReleased (Nat.le_of_eq (fill_congr (by simp))) (fun n => ?_) ?_)
  · simp [discardTraffic, Entry.freed]
  · simp [discardTraffic]

theorem powerOn_store (s : State) : StoreWithinBound (powerOn s) := by
  have hr : reserved (powerOn s) = 0 := reserved_eq_zero (fun n => by rw [powerOn_entry]; rfl)
  have hf : fill (powerOn s) = 0 := rfl
  have hc : claim (powerOn s) = 0 := rfl
  exact ⟨by rw [hr, hf, hc]; exact Nat.zero_le _, fun _ => ⟨hr, hc⟩, fun _ h => by cases h⟩

/-- R114, R128: a mode write empties the record sequence and releases reservations and claim. -/
theorem writeMode_store (m : BitVec 3) {s : State} (h : StoreWithinBound s) : StoreWithinBound (writeMode m s) := by
  refine h.ofReleased ?_ (fun n => by rw [writeMode_entry]; rfl) (by simp [writeMode, (cancelCapture_spec _).1])
  simp [writeMode, fill, egressTail, slotsOf]

theorem writeWord_store (x : WinWord) (w : Word) {s : State} (h : StoreWithinBound s) :
    StoreWithinBound (writeWord s x w) := by
  cases x with
  | storeMode => exact writeMode_store _ h
  | timeout => exact h.settings rfl
  | threshold => exact h.ofFill (Nat.le_refl _) rfl rfl rfl
  | _ => exact store_same rfl rfl rfl h

theorem purge_store {s : State} (h : StoreWithinBound s) : StoreWithinBound (purge s) := by
  have hp : StoreWithinBound (mapEntries Entry.purged s) :=
    mapEntries_store (fun e => by unfold Entry.purged; split <;> simp [Entry.freed]) h
  exact hp.settings rfl

/-- R136, R195: CLEAR_WATCH empties the store and releases reservations and claim before any answer. -/
theorem clearWatch_store {s : State} (h : StoreWithinBound s) : StoreWithinBound (clearWatch s) := by
  have hw : StoreWithinBound (watchCleared s) := by
    refine h.ofReleased ?_ (fun n => ?_) ?_
    · simp [watchCleared, clearTst, fill, egressTail, slotsOf]
    · simp [watchCleared, Entry.untraced]
    · simp [watchCleared, (cancelCapture_spec _).1]
  have hf : StoreWithinBound (forwardResponse (forwardRequest (watchCleared s))) := by
    unfold forwardResponse
    split
    · split
      · exact answerResponse_store false (forwardRequest_store hw)
      · exact forwardRequest_store hw
    · exact forwardRequest_store hw
  change StoreWithinBound (State.setAlc _ (clearSummary (forwardResponse (forwardRequest (watchCleared s)))))
  exact store_same (by simp) (by simp) (by simp) hf

/-- R115, R122, R123: the operations keep fill, reserved count and claim within the store. -/
theorem operations_keep_store : KeptByOperations StoreWithinBound where
  pending _ _ := store_same rfl rfl rfl
  mgp _ _ := store_same rfl rfl rfl
  cs _ _ := store_same rfl rfl rfl
  lrst _ _ h _ := store_same rfl rfl rfl h
  porst _ := store_same rfl rfl rfl
  takeRequest r _ _ := takeRequest_store r
  passHoldPoint _ _ := passHoldPoint_store
  takeDownstream s _ h := by
    by_cases ho : ∃ t n, s.rqp.inProcess = some t ∧ t.phase = .offered n
    · obtain ⟨t, n, ht, hp⟩ := ho
      rw [takeDownstream_eq ht hp]
      exact makeClaims_store (takenDown_store h)
    · rwa [takeDownstream_none (fun t n ht hp => ho ⟨t, n, ht, hp⟩)]
  takeResponse r _ _ := takeResponse_store r
  beginUpstreamOffer s _ h := by
    unfold beginUpstreamOffer; split <;> exact store_same rfl rfl rfl h
  takeUpstream _ _ := takeUpstream_store
  takeReport _ := takeReport_store
  takeXt s h := by
    unfold takeXt; split
    · exact countTaken_store _ _ h
    · exact h
  takeAn s h := by
    unfold takeAn; split
    · exact countTaken_store _ _ h
    · exact h
  takeDwell _ := takeDwell_store
  takeArm _ := takeArmCommand_store
  takeDisarm _ := takeDisarmCommand_store
  latchXt _ := store_same rfl rfl rfl
  tick _ := tickEvent_store
  prescale _ h _ := store_same rfl rfl rfl h
  beginRecord s h := h.ofFill (Nat.le_of_eq (fill_beginRecord s)) (by simp) (beginRecord_mode s) (by simp)
  freeSlot _ := freeSlot_store
  passByte _ _ := passByte_store
  linkReset _ := linkReset_store
  powerOn s _ := powerOn_store s
  pin _ _ h := h.ofFill (Nat.le_refl _) rfl rfl rfl
  removeRead n _ := removeRead_store n
  writeWord _ x w h _ := writeWord_store x w h
  latchArm s h := by unfold latchArm; split <;> exact store_same rfl rfl rfl h
  latchDisarm s h := by unfold latchDisarm; split <;> exact store_same rfl rfl rfl h
  release _ h := settleRoom_store (store_same rfl rfl rfl h)
  purge _ := purge_store
  setCapturing _ _ := store_same rfl rfl rfl
  placeMark _ _ := offerEvent_store _
  acknowledge _ _ := store_same rfl rfl rfl
  clearSummary _ := store_same rfl rfl rfl
  clearMatches _ := store_same rfl rfl rfl
  clearWatch _ := clearWatch_store

/-! ### Traced flags and reservations stand where they belong -/

/-- R19, R24, R122: the trace fields of one slot: `TraceFieldsClear` says it of every slot. -/
def Entry.TraceClear (e : Entry) : Prop :=
  (e.traced = false → e.reservation = 0) ∧ (e.state = .orphaned → e.traced = false)
    ∧ (e.state = .free → e.traced = false ∧ e.expired = false)

theorem traceFieldsClear_iff {s : State} : TraceFieldsClear s ↔ ∀ n, (entry s n).TraceClear := .rfl

theorem Entry.TraceClear.reserve {e : Entry} (h : e.TraceClear) {k : Nat} (hk : k ≤ e.reservation) :
    { e with reservation := k }.TraceClear := by
  refine ⟨fun ht => ?_, h.2⟩
  have := h.1 ht
  show k = 0
  omega

theorem Entry.TraceClear.freed (e : Entry) : e.freed.TraceClear := ⟨fun _ => rfl, fun _ => rfl, fun _ => ⟨rfl, rfl⟩⟩

theorem Entry.TraceClear.untraced {e : Entry} (h : e.TraceClear) : e.untraced.TraceClear :=
  ⟨fun _ => rfl, fun _ => rfl, fun hf => ⟨rfl, (h.2.2 hf).2⟩⟩

theorem Entry.TraceClear.ofLive {e : Entry} (hl : e.state = .live) (h : e.traced = false → e.reservation = 0) :
    e.TraceClear := ⟨h, fun ho => (by rw [hl] at ho; cases ho), fun hf => (by rw [hl] at hf; cases hf)⟩

theorem Entry.TraceClear.abandoned {e : Entry} (h : e.TraceClear) : e.abandoned.TraceClear := by
  unfold Entry.abandoned
  split
  · exact ⟨fun _ => rfl, fun _ => rfl, nofun⟩
  · rename_i ht
    exact ⟨h.1, fun _ => by simpa using ht, nofun⟩

theorem Entry.TraceClear.aged {e : Entry} (h : e.TraceClear) : e.aged.TraceClear := by
  unfold Entry.aged
  split
  · exact h
  · exact h

theorem Entry.TraceClear.purged {e : Entry} (h : e.TraceClear) : e.purged.TraceClear := by
  unfold Entry.purged
  split
  · exact .freed e
  · exact h

/-- Every slot is as it was. -/
theorem trace_same {s t : State} (h : ∀ n, entry t n = entry s n) (hs : TraceFieldsClear s) : TraceFieldsClear t :=
  traceFieldsClear_iff.2 fun n => by rw [h]; exact hs n

/-- Every slot is as it was but for a smaller reservation. -/
theorem trace_reserved {s t : State}
    (h : ∀ n, ∃ k ≤ (entry s n).reservation, entry t n = { entry s n with reservation := k })
    (hs : TraceFieldsClear s) : TraceFieldsClear t := traceFieldsClear_iff.2 fun n => by
  obtain ⟨k, hk, he⟩ := h n
  rw [he]
  exact (traceFieldsClear_iff.1 hs n).reserve hk

/-- Every slot is changed by the same function. -/
theorem trace_mapped {s t : State} {f : Entry → Entry} (h : ∀ n, entry t n = f (entry s n))
    (hf : ∀ e : Entry, e.TraceClear → (f e).TraceClear) (hs : TraceFieldsClear s) : TraceFieldsClear t :=
  traceFieldsClear_iff.2 fun n => by rw [h]; exact hf _ (hs n)

/-- One slot is changed. -/
theorem trace_slot {s t : State} {n : Fin 64} {e : Entry} (h : ∀ m, entry t m = if m = n then e else entry s m)
    (he : e.TraceClear) (hs : TraceFieldsClear s) : TraceFieldsClear t := traceFieldsClear_iff.2 fun m => by
  rw [h]
  split
  · exact he
  · exact hs m

theorem abandon_trace (n : Fin 64) {s : State} (h : TraceFieldsClear s) : TraceFieldsClear (abandon n s) :=
  trace_slot (abandon_entry n s) (traceFieldsClear_iff.1 h n).abandoned h

theorem makeClaims_trace {s : State} (h : TraceFieldsClear s) : TraceFieldsClear (makeClaims s) :=
  makeClaims_kept (fun _ n h _ _ _ => abandon_trace n h) h

theorem claimAtReport_trace {s : State} (h : TraceFieldsClear s) : TraceFieldsClear (claimAtReport s) :=
  claimAtReport_kept (fun _ n h _ _ _ => abandon_trace n h) (trace_same (fun _ => by simp) h) h

/-- R15: a slot that is marked is LIVE. -/
theorem expireReport_trace (n : Fin 64) {s : State} (h : TraceFieldsClear s) : TraceFieldsClear (expireReport n s) :=
  traceFieldsClear_iff.2 fun m => by
    rw [expireReport_entry]
    split
    · rename_i hd
      exact .ofLive (due_iff.1 hd.2).1 (h n).1
    · exact h m

theorem ottTick_trace {s : State} (h : TraceFieldsClear s) : TraceFieldsClear (ottTick s) := by
  have ha : TraceFieldsClear (mapEntries Entry.aged s) :=
    trace_mapped (entry_mapEntries _ s) (fun _ => Entry.TraceClear.aged) h
  unfold ottTick
  dsimp only
  split
  · exact foldl_kept (fun t n => expireReport n t) TraceFieldsClear (fun _ n => expireReport_trace n) _ _ ha
  · exact makeClaims_trace ha

theorem tickEvent_trace {s : State} (h : TraceFieldsClear s) : TraceFieldsClear (tickEvent s) := by
  have ho := ottTick_trace (s := s.setTbs { s.tbs with prescale := 0, timestamp := s.tbs.timestamp + 1 })
    (trace_same (fun _ => by simp) h)
  exact trace_same (fun n => by simp [tickEvent]) ho

/-- R96: the allocated entry is traced with a reservation, or untraced without one. -/
theorem takenDown_trace {t : RqpTxn} {n : Fin 64} {s : State} (h : TraceFieldsClear s) :
    TraceFieldsClear (takenDown t n s) := by
  have ha : TraceFieldsClear (setEntry n (allocated t.req s.tbs.timestamp (entry s n)) s) :=
    trace_slot (entry_setEntry n _ s) (.ofLive rfl (fun _ => rfl)) h
  refine traceFieldsClear_iff.2 fun m => ?_
  show (entry (placeRequest t.req n _) m).TraceClear
  obtain he | ⟨hm, c, _, he⟩ := placeRequest_entry t.req n (setEntry n (allocated t.req s.tbs.timestamp (entry s n)) s) m
  · rw [he]; exact ha m
  · rw [he]
    refine .ofLive ?_ nofun
    subst hm
    simp [allocated]

theorem takeResponse_trace (r : Response) {s : State} (h : TraceFieldsClear s) : TraceFieldsClear (takeResponse r s) := by
  unfold takeResponse
  split
  · split
    · exact trace_reserved (takeMatched_entry _ r s) h
    · refine trace_slot (n := tagSlot r.tag) (fun m => ?_) (.freed (entry s (tagSlot r.tag))) h
      simp [takeLate, entry_setEntry]
    · exact trace_same (fun m => by simp) h
  · exact h

theorem takeUpstream_trace {s : State} (h : TraceFieldsClear s) : TraceFieldsClear (takeUpstream s) := by
  unfold takeUpstream
  split
  · unfold retire
    split
    · rename_i t _
      refine trace_slot (n := t.slot) (fun m => ?_) (.freed (entry s t.slot)) h
      simp [entry_setEntry]
    · exact trace_same (fun _ => by simp) h
  · exact claimAtReport_trace (trace_same (fun _ => by simp) h)
  · exact h

theorem takeReport_trace {s : State} (h : TraceFieldsClear s) : TraceFieldsClear (takeReport s) := by
  unfold takeReport
  split
  · refine trace_same (fun n => ?_) h
    unfold takeRqpReport
    dsimp only
    split <;> simp
  · exact trace_reserved (answerResponse_entry _ _) (trace_same (fun n => by simp) h)
  · exact h

theorem writeWord_trace (x : WinWord) (w : Word) {s : State} (h : TraceFieldsClear s) :
    TraceFieldsClear (writeWord s x w) := by
  cases x with
  | storeMode => exact trace_mapped (writeMode_entry _ s) (fun _ => Entry.TraceClear.untraced) h
  | _ => exact trace_same (fun _ => rfl) h

/-- R19, R24, R122: the operations keep the trace fields clear where they belong. -/
theorem operations_keep_trace : KeptByOperations TraceFieldsClear where
  pending _ _ := trace_same (fun _ => by simp)
  mgp _ _ := trace_same (fun _ => by simp)
  cs _ _ := trace_same (fun _ => by simp)
  lrst _ _ h _ := trace_same (fun _ => by simp) h
  porst _ := trace_same (fun _ => by simp)
  takeRequest r s _ := trace_same (entry_congr (takeRequest_ott r s))
  passHoldPoint _ _ := trace_same (fun _ => by simp)
  takeDownstream s _ h := by
    by_cases ho : ∃ t n, s.rqp.inProcess = some t ∧ t.phase = .offered n
    · obtain ⟨t, n, ht, hp⟩ := ho
      rw [takeDownstream_eq ht hp]
      exact makeClaims_trace (takenDown_trace h)
    · rwa [takeDownstream_none (fun t n ht hp => ho ⟨t, n, ht, hp⟩)]
  takeResponse r _ _ := takeResponse_trace r
  beginUpstreamOffer s _ := trace_same (fun _ => by unfold beginUpstreamOffer; split <;> rfl)
  takeUpstream _ _ := takeUpstream_trace
  takeReport _ := takeReport_trace
  takeXt _ := trace_same (fun _ => by unfold takeXt; split <;> simp)
  takeAn _ := trace_same (fun _ => by unfold takeAn; split <;> simp)
  takeDwell _ := trace_same (fun _ => by unfold takeDwell; dsimp only; (repeat' split) <;> simp)
  takeArm _ := trace_same (fun _ => by unfold takeArmCommand; dsimp only; split <;> simp)
  takeDisarm _ := trace_same (fun _ => by unfold takeDisarmCommand; dsimp only; (repeat' split) <;> simp)
  latchXt _ := trace_same (fun _ => rfl)
  tick _ := tickEvent_trace
  prescale _ h _ := trace_same (fun _ => rfl) h
  beginRecord _ := trace_same (fun _ => by simp)
  freeSlot _ := trace_same (fun _ => by simp)
  passByte _ _ h _ := trace_same (fun _ => rfl) h
  linkReset s := trace_mapped (linkReset_entry s) (fun e _ => .freed e)
  powerOn s _ := traceFieldsClear_iff.2 fun n => by rw [powerOn_entry]; exact .freed Entry.reset
  pin _ _ := trace_same (fun _ => rfl)
  removeRead _ _ := trace_same (fun _ => by simp)
  writeWord _ x w h _ := writeWord_trace x w h
  latchArm _ := trace_same (fun _ => by unfold latchArm; split <;> rfl)
  latchDisarm _ := trace_same (fun _ => by unfold latchDisarm; split <;> rfl)
  release _ := trace_same (fun _ => by simp)
  purge s := trace_mapped (entry_purge s) (fun _ => Entry.TraceClear.purged)
  setCapturing _ _ := trace_same (fun _ => by simp)
  placeMark _ _ := trace_same (fun _ => by simp [placeMark])
  acknowledge _ _ := trace_same (fun _ => by simp)
  clearSummary _ := trace_same (fun _ => by simp)
  clearMatches _ := trace_same (fun _ => by simp)
  clearWatch s := trace_mapped (clearWatch_entry s) (fun _ => Entry.TraceClear.untraced)

/-- Settles O57: the store stays within its bound and the trace fields where they belong, each kept by every operation. -/
theorem everyStepKeepsTheStoreWithinBound : Obligations.EveryStepKeepsTheStoreWithinBound :=
  fun _ _ h hs => ⟨operations_keep_store.step h.1 hs, operations_keep_trace.step h.2 hs⟩

end Sys2Proof.Machine
/-! PROOFS. What the takes of requests and responses do (R4 to R11, R16, R17, R99, R123, R167, R170 to R177). -/
namespace Sys2Proof.Machine

/-! ### The commands while both link ports are up (R161) -/

theorem exec_downstreamRequestTake {s : State} (h : LinksUp s) :
    exec .downstreamRequestTake s = .next (takeDownstream s) := whenLinkUp_up h

theorem exec_downstreamResponseTake {s : State} (h : LinksUp s) (r : Response) :
    exec (.downstreamResponseTake r) s = .next (takeResponse r s) := whenLinkUp_up h

theorem exec_upstreamResponseTake {s : State} (h : LinksUp s) :
    exec .upstreamResponseTake s = .next (takeUpstream s) := whenLinkUp_up h

/-! ### The take of a matched response (R7, R173, R174) -/

theorem takeResponse_matched {n : Fin 64} {r : Response} {s : State} (h : MatchedAt n r s) :
    takeResponse r s = takeMatched n r s := by
  obtain ⟨hl, hn⟩ := lookup_matched h
  simp only [takeResponse, h.2.1, Option.isNone_none, if_true, hl, hn]

/-- R173: a response of correct form is evaluated as it came. -/
theorem takeMatched_correct {n : Fin 64} {r : Response} {s : State}
    (h : r.beats.length = expectedBeats (entry s n).kind (entry s n).lenM1 r.status) :
    takeMatched n r s = evaluateResponse n r.status r.beats
      (s.setRsp { inProcess := some { slot := n, phase := .checks, status := r.status, data := r.beats } }) := by
  simp only [takeMatched, h, if_true]

/-- R174: the evaluation of a response that meets no channel. -/
theorem evaluateResponse_unmatched {n : Fin 64} {st : DownStatus} {d : List BeatData} {s : State}
    (h : ∀ k, ¬ Matches s (watchedResponse (entry s n) st d) k) :
    evaluateResponse n st d s
      = answerResponse false (s.setRsp { inProcess := some { slot := n, phase := .checks, status := st, data := d } }) := by
  simp only [evaluateResponse, hitSet_eq_zero.2 h, if_true, recordHits_zero]

/-- What `ResponseForwarded` says does not depend on RSP before the answer. -/
theorem ResponseForwarded.ofRsp {x : RspTxn} {y : Rsp} {s t : State} (h : ResponseForwarded x (s.setRsp y) t) :
    ResponseForwarded x s t := h

/-- Settles O13: the form check passes, so the response is evaluated; without hits it is answered at once (R174), with
hits it is reported (R51). -/
theorem aMatchedResponseIsOfferedOrReported : Obligations.AMatchedResponseIsOfferedOrReported := by
  intro r n s hm hb
  have hx := exec_downstreamResponseTake hm.1 r
  rw [takeResponse_matched hm, takeMatched_correct hb] at hx
  generalize hy : ({ inProcess := some ⟨n, .checks, r.status, r.beats⟩ } : Rsp) = y at hx
  refine ⟨fun ht hno => ?_, fun ht hno => ?_, fun hhit => ?_⟩
  · rw [hx, evaluateResponse_noHits (s := s.setRsp y) hno ht]
    rfl
  · rw [evaluateResponse_unmatched (s := s.setRsp y) hno] at hx
    exact ⟨_, hx, (answerResponse_forwarded rfl).ofRsp.ofRsp, by simp⟩
  · rw [evaluateResponse_hits (s := s.setRsp y) hhit] at hx
    refine ⟨hitSet s.mu.channels (watchedResponse (entry s n) r.status r.beats), _, fun k => ?_, fun k => ?_, hx⟩
    · rw [hitSet_bit]; rfl
    · simp only [recordHits, State.setMu_mu]
      rw [Fin.getElem_fin, Vector.getElem_ofFn]
      rfl

/-! ### The take of a stray response (R10, R11) -/

theorem takeResponse_late {r : Response} {s : State} (hr : s.rsp.inProcess = none)
    (ho : (entry s (tagSlot r.tag)).state = .orphaned) (hg : (entry s (tagSlot r.tag)).gen = tagGen r.tag) :
    takeResponse r s = takeLate (tagSlot r.tag) s := by
  have hl : lookup r.tag s = .late := by simp only [lookup, ho, hg, if_true]
  simp only [takeResponse, hr, Option.isNone_none, if_true, hl]

theorem takeResponse_unsolicited {r : Response} {s : State} (hr : s.rsp.inProcess = none)
    (h : (entry s (tagSlot r.tag)).state = .free ∨ (entry s (tagSlot r.tag)).gen ≠ tagGen r.tag) :
    takeResponse r s = takeAnomaly (unsolicitedAnomaly r.tag) s := by
  have hl : lookup r.tag s = .unsolicited := by
    obtain ⟨_, hs, hg⟩ | ⟨_, hs, hg⟩ | ⟨hl, _⟩ := lookup_cases r.tag s
    · simp [hs, hg] at h
    · simp [hs, hg] at h
    · exact hl
  simp only [takeResponse, hr, Option.isNone_none, if_true, hl]

/-- R122: freeing a slot releases its reservation. -/
theorem reserved_freed (n : Fin 64) (s : State) :
    reserved (setEntry n (entry s n).freed s) + (entry s n).reservation = reserved s := by
  simpa [Entry.freed] using reserved_setEntry n (entry s n).freed s

/-- Settles O15: the lookup names the orphan, or no entry of the tag's generation (R7); the anomaly is all that
follows, behind the freed orphan (R10, R11). -/
theorem strayResponsesAreConsumed : Obligations.StrayResponsesAreConsumed := by
  rintro r n s hup hr rfl
  have hx := exec_downstreamResponseTake hup r
  refine ⟨?_, ?_⟩
  · rintro a ho hg rfl
    rw [takeResponse_late hr ho hg] at hx
    have hfree := reserved_freed (tagSlot r.tag) s
    have hot : (takeLate (tagSlot r.tag) s).ott
        = (setEntry (tagSlot r.tag) (entry s (tagSlot r.tag)).freed s).ott := by simp [takeLate]
    refine ⟨_, hx, ?_, fun m hm => ?_, ?_, ?_, by simp, by simp, by simp, by simp, by simp⟩
    · rw [entry_congr hot, entry_setEntry_self]; rfl
    · rw [entry_congr hot, entry_setEntry, if_neg hm]
    · exact (takeAnomaly_taken _ (setEntry _ _ s)).of_eq (by simp) (by simp) (by simp) (by simp) (by simp) (by simp)
    · exact (takeAnomaly_recorded _ (setEntry _ _ s)).of_eq (by simp) (by simp) (by simp) (by omega) rfl rfl
  · rintro a h rfl
    rw [takeResponse_unsolicited hr h] at hx
    exact ⟨_, hx, takeAnomaly_taken _ s, takeAnomaly_recorded _ s, by simp, by simp, by simp, by simp, by simp, by simp⟩

/-! ### The take of an offered request (R5, R170) -/

/-- R5, R170: without a capture in hand the take writes the selected slot and empties RQP. -/
theorem takenDown_uncaptured {t : RqpTxn} {n : Fin 64} {s : State} (h : s.tcu.capture = none) :
    takenDown t n s = setTxn none (setEntry n (allocated t.req s.tbs.timestamp (entry s n)) s) := by
  simp [takenDown, placeRequest, h]

/-- R14: an entry of age 0 is not due. -/
theorem not_due_of_age_zero {s : State} {n : Fin 64} (h : (entry s n).age = 0) : ¬ Due s n := by
  rintro ⟨_, _, h0, hle⟩
  rw [h] at hle
  exact h0 (by bv_omega)

/-- R14: of a slot being due OTT and RSP decide: its entry, the timeout and the bound slot. -/
theorem due_congr_entry {s t : State} {n : Fin 64} (he : entry t n = entry s n) (hr : t.rsp = s.rsp)
    (ht : t.ott.timeout = s.ott.timeout) : Due t n ↔ Due s n := by simp only [Due, he, hr, ht]

/-- R17: claims reach due slots alone, and keep the settings of OTT. -/
theorem makeClaims_settings (s : State) : (makeClaims s).ott.policy = s.ott.policy
    ∧ (makeClaims s).ott.timeout = s.ott.timeout ∧ (makeClaims s).ott.purgeCount = s.ott.purgeCount := by
  have step : ∀ (t : State) (n : Fin 64),
      (t.ott.policy = s.ott.policy ∧ t.ott.timeout = s.ott.timeout ∧ t.ott.purgeCount = s.ott.purgeCount) →
      (claimFor t n).ott.policy = s.ott.policy ∧ (claimFor t n).ott.timeout = s.ott.timeout
        ∧ (claimFor t n).ott.purgeCount = s.ott.purgeCount := fun t n h => by
    obtain ⟨h1, h2, h3⟩ := claimFor_ott t n
    exact ⟨h1.trans h.1, h2.trans h.2.1, h3.trans h.2.2⟩
  unfold makeClaims
  exact foldl_kept claimFor (fun t => t.ott.policy = s.ott.policy ∧ t.ott.timeout = s.ott.timeout
    ∧ t.ott.purgeCount = s.ott.purgeCount) step slotNumbers s ⟨rfl, rfl, rfl⟩

/-- R17: a slot that is not due keeps its entry. -/
theorem makeClaims_entry {s : State} {n : Fin 64} (h : ¬ Due s n) : entry (makeClaims s) n = entry s n := by
  refine (makeClaims_kept (P := fun t => entry t n = entry s n ∧ t.rsp = s.rsp ∧ t.ott.timeout = s.ott.timeout)
    (fun t m ht hp hd hroom => ?_) ⟨rfl, rfl, rfl⟩).1
  obtain ⟨he, hr, hto⟩ := ht
  have hne : n ≠ m := by rintro rfl; exact h ((due_congr_entry he hr hto).1 hd)
  have hc : claimFor t m = abandon m t := by
    simp [claimFor, hp, due_iff.2 hd, positionFree_iff.2 hroom]
  refine ⟨by rw [abandon_entry, if_neg hne, he], by simp [hr], ?_⟩
  rw [← hc, (claimFor_ott t m).2.1, hto]

/-- R123: where no request waits in ROOM_WAIT, claims leave RQP alone. -/
theorem makeClaims_rqp {s : State} (h : NoneWaitsForRoom s) : (makeClaims s).rqp = s.rqp :=
  makeClaims_kept (P := fun t => t.rqp = s.rqp)
    (fun t _ ht _ _ _ => (abandon_rqp (fun x hx => h x (by rw [← ht]; exact hx))).trans ht) rfl

/-- Settles O11: the allocation makes the selected slot young, so it is not due; what else is due claims the position
that RQP released (R17, R176). -/
theorem theDownstreamTakeAllocates : Obligations.TheDownstreamTakeAllocates := by
  intro s t n hup ht hp hc
  have hx := exec_downstreamRequestTake hup
  rw [takeDownstream_eq ht hp, takenDown_uncaptured hc] at hx
  generalize hv : setTxn none (setEntry n (allocated t.req s.tbs.timestamp (entry s n)) s) = v at hx
  have hself : entry v n = allocated t.req s.tbs.timestamp (entry s n) := by rw [← hv]; simp
  have hother : ∀ m, m ≠ n → entry v m = entry s m := fun m hm => by rw [← hv]; simp [entry_setEntry, hm]
  have hrqp : v.rqp = { s.rqp with inProcess := none } := by rw [← hv]; simp
  have hpol : v.ott.policy = s.ott.policy := by rw [← hv]; simp
  have hto : v.ott.timeout = s.ott.timeout := by rw [← hv]; simp
  have hpc : v.ott.purgeCount = s.ott.purgeCount := by rw [← hv]; simp
  have hrmg : v.rmg = s.rmg := by rw [← hv]; simp
  have hndue : ¬ Due v n := not_due_of_age_zero (by rw [hself]; rfl)
  have hdue : ∀ m, m ≠ n → (Due v m ↔ Due s m) :=
    fun m hm => due_congr_entry (hother m hm) (by rw [← hv]; simp) hto
  have hn : entry (makeClaims v) n = allocated t.req s.tbs.timestamp (entry s n) := by rw [makeClaims_entry hndue, hself]
  obtain ⟨g1, g2, g3⟩ := makeClaims_settings v
  refine ⟨_, hx, ?_, ?_, ?_, ?_, ?_, g2.trans hto, g1.trans hpol, g3.trans hpc, fun hq => ?_,
    fun d hab hdn hd hlow hroom => ?_⟩
  · rw [hn]; rfl
  · rw [hn]; simp only [downstreamOffer, ht, hp]; rfl
  · rw [makeClaims_rqp (fun x hx => by rw [hrqp] at hx; cases hx), hrqp]
  · rw [← hv]; simp
  · rw [← hv]; simp
  · have hsame : makeClaims v = v := makeClaims_none (hq.imp (fun h => hpol.trans h) (fun h m => by
      by_cases hm : m = n
      · rw [hm]; exact hndue
      · rw [hdue m hm]; exact h m hm))
    rw [hsame]
    exact ⟨hother, by rw [← hv]; rfl⟩
  · have hres : reservedPositions v = 0 := reservedPositions_none (by rw [hrqp])
    obtain ⟨he, ⟨q, hr⟩, hlen, _⟩ := makeClaims_lowest (s := v) (n := d) (hpol.trans hab) ((hdue d hdn).2 hd)
      (fun m hm hdm => by
        by_cases hmn : m = n
        · rw [hmn] at hdm; exact hndue hdm
        · exact hlow m hm hmn ((hdue m hmn).1 hdm))
      (by rw [hrmg, hres]; exact hroom)
    rw [hother d hdn] at he hr
    obtain ⟨hst, _, _, _, hage, _⟩ := (entry s d).abandoned_fields
    refine ⟨by rw [he, hst], by rw [he, hage], ?_, by omega, by rw [hr, hrmg], by rw [hr, hrmg]⟩
    rw [hr, hrmg]
    exact ⟨q, by simp [timeoutAnswer]⟩

end Sys2Proof.Machine
namespace Sys2Proof.Machine

/-! ### The take of an offered response (R9, R167, R176, R177) -/

/-- R9: what a retirement leaves: the slot freed, and nothing else but RSP EMPTY. -/
theorem retired_left (x : RspTxn) (s : State) :
    retired x s = { s with ott := (retired x s).ott, rsp := { inProcess := none } }
      ∧ (retired x s).ott.timeout = s.ott.timeout ∧ (retired x s).ott.policy = s.ott.policy
      ∧ (retired x s).ott.purgeCount = s.ott.purgeCount := ⟨rfl, rfl, rfl, rfl⟩

/-- R9, R122: a retirement releases the reservation of its slot. -/
theorem reserved_retired (x : RspTxn) (s : State) :
    reserved (retired x s) + (entry s x.slot).reservation = reserved s := reserved_freed x.slot s

/-- R4, R9: the lowest FREE slot after a retirement may be the retired one. -/
theorem lowestFree_retired {x : RspTxn} {s : State} {n : Fin 64} (hn : (entry s n).state = .free ∨ n = x.slot)
    (hlow : ∀ m : Fin 64, m < n → (entry s m).state ≠ .free ∧ m ≠ x.slot) : LowestFree (retired x s) n := by
  refine ⟨?_, fun m hm => ?_⟩
  · rw [entry_retired]
    split
    · rfl
    · rename_i hne; exact hn.resolve_right hne
  · rw [entry_retired, if_neg (hlow m hm).2]
    exact (hlow m hm).1

/-- R177: RMG after the take of the response offered: what is left in the queue, and the source the pointer goes to. -/
def offerTaken (q : List UpResponse) (g : Source) (s : State) : State :=
  s.setRmg { queue := q, pointer := g, offer := none }

theorem takeUpstream_rsp {s : State} {x : RspTxn} (ho : s.rmg.offer = some .rsp) (hx : s.rsp.inProcess = some x) :
    takeUpstream s = settleRoom (retired x (offerTaken s.rmg.queue .queue s)) := by
  simp only [takeUpstream, ho]
  exact retire_eq hx

theorem takeUpstream_queue {s : State} {r : UpResponse} {rest : List UpResponse} (ho : s.rmg.offer = some .queue)
    (hq : s.rmg.queue = r :: rest) :
    takeUpstream s = claimAtReport (offerTaken rest .rsp s) := by
  simp only [takeUpstream, ho, hq, List.tail_cons, offerTaken]

/-- R176: the free value gives the position to the request exactly where it goes first. -/
theorem positionContested_first {s : State} (h : positionContested s = true) :
    RequestGoesFirst s ↔ Config.requestTakesFreedPosition s.choices = true := by
  obtain ⟨_, _, ho, ha⟩ := positionContested_iff.1 h
  simp only [acceptsRequest, Bool.and_eq_true, Option.isNone_iff_eq_none, lowestFree_isSome, Bool.not_eq_true'] at ha
  obtain ⟨⟨⟨hn, hh⟩, hf⟩, _⟩ := ha
  exact ⟨fun ⟨_, _, _, _, g⟩ => g, fun g => ⟨requestOffered_iff.1 ho, hn, hh, hf, g⟩⟩

/-- R17, R176: where the request does not go first OTT makes its claims. -/
theorem claimAtReport_claims {s : State} (h : ¬ RequestGoesFirst s) :
    ∃ k, claimAtReport s = makeClaims (s.setChoices k) := by
  by_cases hc : positionContested s = true
  · have hf : ¬ Config.requestTakesFreedPosition s.choices = true := fun g => h ((positionContested_first hc).2 g)
    exact ⟨s.choices + 1, by simp only [claimAtReport, hc, hf, if_true]; rfl⟩
  · exact ⟨s.choices, by simp only [claimAtReport, hc]; rfl⟩

/-- R167, R176: where the request goes first and a position is left for it. -/
theorem claimAtReport_request {s : State} (h : RequestGoesFirst s) (hp : s.ott.policy = .abandon) {n : Fin 64}
    (hd : Due s n) (hroom : s.rmg.queue.length < Config.queuePositions) :
    claimAtReport s = makeClaimsKeepingOne (s.setChoices (s.choices + 1)) := by
  obtain ⟨ho, hn, hh, hf, hv⟩ := h
  have ha : acceptsRequest s = true := by
    simp [acceptsRequest, hn, hh, lowestFree_isSome.2 hf, positionFree_iff, reservedPositions_none hn, hroom]
  have hc : positionContested s = true := positionContested_iff.2 ⟨hp, ⟨n, hd⟩, requestOffered_iff.2 ho, ha⟩
  simp only [claimAtReport, hc, hv, if_true]

/-- R166, R180: readiness on the upstream request channel, in the words of the rules. -/
theorem upstreamRequestReady_of {s : State} (hup : LinksUp s) (hn : s.rqp.inProcess = none) (hh : s.rqp.held = false)
    (hf : ∃ n, (entry s n).state = .free) (hroom : s.rmg.queue.length < Config.queuePositions) :
    upstreamRequestReady s = true := by
  obtain ⟨_, ha⟩ := acceptsRequest_iff.2 ⟨hup, hn, hh, hf, hroom⟩
  simp [upstreamRequestReady, linkUp_iff.2 hup, ha]

/-- R16: claims that keep a position leave RQP alone, no request waiting, and every FREE slot FREE. -/
theorem makeClaimsKeepingOne_free {s : State} {k : Fin 64} (hn : s.rqp.inProcess = none) (hk : (entry s k).state = .free) :
    (makeClaimsKeepingOne s).rqp = s.rqp ∧ (entry (makeClaimsKeepingOne s) k).state = .free := by
  refine makeClaimsKeepingOne_kept (P := fun t => t.rqp = s.rqp ∧ (entry t k).state = .free) (fun t m ht _ hd _ => ?_)
    ⟨rfl, hk⟩
  refine ⟨(abandon_rqp (fun x hx => ?_)).trans ht.1, ?_⟩
  · rw [ht.1, hn] at hx; cases hx
  · rw [abandon_entry, if_neg, ht.2]
    rintro rfl
    rw [hd.1] at ht; cases ht.2

/-- R16, R17: what a claim leaves of its slot and of the queue, in the words of the statements. -/
theorem claimed_left {s u : State} {n : Fin 64} {q : List UpResponse} (he : entry u n = (entry s n).abandoned)
    (hr : u.rmg = { s.rmg with queue := s.rmg.queue ++ timeoutAnswer (entry s n) :: q }) :
    (entry u n).state = .orphaned ∧ (entry u n).age = (entry s n).age
      ∧ (s.rmg.queue ++ [{ tag := (entry s n).tag, initiator := (entry s n).initiator, status := .timeout, data := [] }])
          <+: u.rmg.queue
      ∧ u.rmg.pointer = s.rmg.pointer ∧ u.rmg.offer = s.rmg.offer := by
  obtain ⟨hst, _, _, _, hage, _⟩ := (entry s n).abandoned_fields
  rw [hr, he]
  exact ⟨hst, hage, ⟨q, by simp [timeoutAnswer]⟩, rfl, rfl⟩

/-- Settles O17: RSP's response retires its entry, and room wait is settled with what that releases (R9, R123); a queued
response leaves a position, which goes to the claims or, where it goes first, to the request (R167, R176). -/
theorem theUpstreamTakeHasItsEffects : Obligations.TheUpstreamTakeHasItsEffects := by
  intro s hup
  have hx := exec_upstreamResponseTake hup
  refine ⟨?_, ?_, ?_, ?_, ?_, ?_⟩
  · intro t ho ht hw
    rw [takeUpstream_rsp ho ht, settleRoom_same (s := retired t (offerTaken s.rmg.queue .queue s)) hw] at hx
    have he := entry_retired t (offerTaken s.rmg.queue .queue s)
    refine ⟨_, hx, ?_, fun m hm => ?_, rfl, rfl, rfl, rfl⟩
    · rw [he, if_pos rfl]; rfl
    · rw [he, if_neg hm]; rfl
  · intro t x c n ho ht hxp hrw hh hc hg h0 hroom hn hlow
    rw [takeUpstream_rsp ho ht] at hx
    have hres := reserved_retired t (offerTaken s.rmg.queue .queue s)
    have he := entry_retired t (offerTaken s.rmg.queue .queue s)
    have hl : LowestFree (retired t (offerTaken s.rmg.queue .queue s)) n :=
      lowestFree_retired hn hlow
    have hfree : c.claimSize ≤ freeSlots (retired t (offerTaken s.rmg.queue .queue s)) := by
      have hf : fill (retired t (offerTaken s.rmg.queue .queue s)) = fill s := rfl
      have hr : reserved (offerTaken s.rmg.queue .queue s) = reserved s := rfl
      have hq : entry (offerTaken s.rmg.queue .queue s) t.slot = entry s t.slot := rfl
      rw [hr, hq] at hres
      rw [freeSlots, hf]
      omega
    rw [settleRoom_grants (s := retired t (offerTaken s.rmg.queue .queue s)) (t := x) (c := c) (n := n) hxp hrw
      hh hc hg h0 hfree hl] at hx
    refine ⟨_, hx, ?_, fun m hm => ?_, rfl, rfl, rfl, rfl⟩
    · refine (entry_congr rfl _).trans ((he t.slot).trans ?_)
      rw [if_pos rfl]; rfl
    · refine (entry_congr rfl _).trans ((he m).trans ?_)
      rw [if_neg hm]; rfl
  · intro r rest ho hq hnone
    rw [hx, takeUpstream_queue ho hq, claimAtReport_none (s := offerTaken rest .rsp s) hnone]
    rfl
  · intro r rest n ho hq hp hd hlow hroom hfirst
    rw [takeUpstream_queue ho hq] at hx
    obtain ⟨k, hk⟩ := claimAtReport_claims (s := offerTaken rest .rsp s) hfirst
    rw [hk] at hx
    obtain ⟨he, ⟨q, hr⟩, hlen, _⟩ := makeClaims_lowest
      (s := (offerTaken rest .rsp s).setChoices k) hp hd hlow hroom
    obtain ⟨h1, h2, h3, h4, h5⟩ := claimed_left he hr
    exact ⟨_, hx, h1, h2, h3, hlen, h4, h5⟩
  · intro r rest n ho hq hp hd hlast hfirst
    obtain ⟨_, hn, hh, hf, _⟩ := id hfirst
    rw [takeUpstream_queue ho hq, claimAtReport_request (s := offerTaken rest .rsp s)
      hfirst hp hd (by show rest.length < _; omega), makeClaimsKeepingOne_last] at hx
    · refine ⟨_, hx, rfl, hd.1, hd, upstreamRequestReady_of hup hn hh hf ?_⟩
      show rest.length < _; omega
    · show _ ≤ rest.length + _ + 1; omega
  · intro r rest n ho hq hp hd hlow hroom hfirst
    obtain ⟨_, hn, hh, ⟨k, hk⟩, _⟩ := id hfirst
    rw [takeUpstream_queue ho hq, claimAtReport_request (s := offerTaken rest .rsp s)
      hfirst hp hd (by show rest.length < _; omega)] at hx
    generalize (offerTaken rest .rsp s).choices + 1 = c at hx
    have hres : reservedPositions ((offerTaken rest .rsp s).setChoices c) = 0 := reservedPositions_none hn
    obtain ⟨he, ⟨q, hr⟩, hlen⟩ := makeClaimsKeepingOne_lowest (s := (offerTaken rest .rsp s).setChoices c) hp hd hlow
      (by rw [hres]; show rest.length + 0 + 1 < _; omega)
    obtain ⟨h1, h2, h3, h4, h5⟩ := claimed_left he hr
    obtain ⟨hrqp, hfree⟩ := makeClaimsKeepingOne_free (s := (offerTaken rest .rsp s).setChoices c) hn hk
    refine ⟨_, hx, h1, h2, h3, by omega, ?_, h4, h5⟩
    refine upstreamRequestReady_of ?_ (by rw [hrqp]; exact hn) (by rw [hrqp]; exact hh) ⟨k, hfree⟩ (by omega)
    unfold LinksUp
    rw [(makeClaimsKeepingOne_frame _).2.2.2.2.2.1]
    exact hup

end Sys2Proof.Machine
/-! PROOFS. The tick and the ticks named by an expiry (R12 to R17, R63, R73, R81, R100, R101, R154 to R156). -/
namespace Sys2Proof.Machine

/-! ### The tick in each consumer -/

theorem exec_tick {s : State} (h : Powered s) : exec .tick s = .next (tickEvent s) := whenPowered_up h

/-- R154: TBS at a tick. -/
def ticked (s : State) : State := s.setTbs { s.tbs with prescale := 0, timestamp := s.tbs.timestamp + 1 }

theorem tickEvent_eq (s : State) : tickEvent s = pulseTick (tsqTick (rqpTick (ottTick (ticked s)))) := rfl

/-- R81: the hold does not reach its limit. -/
theorem rqpTick_runs {s : State}
    (h : s.rqp.held = true → s.rqp.holdLimit ≠ 0 → (satInc s.rqp.holdAge).toNat < s.rqp.holdLimit.toNat) :
    rqpTick s = s.setRqp (if s.rqp.held then { s.rqp with holdAge := satInc s.rqp.holdAge } else s.rqp) := by
  by_cases hh : s.rqp.held = true
  · have hl : ¬ (s.rqp.holdLimit ≠ 0 ∧ s.rqp.holdLimit.toNat ≤ (satInc s.rqp.holdAge).toNat) :=
      fun g => absurd (h hh g.1) (by omega)
    simp only [rqpTick, hh, if_true, State.setRqp_rqp, hl, if_false]
  · simp only [rqpTick, hh]
    rfl

/-- R63: the sequencer after a tick. -/
def Tsq.ticked (q : Tsq) : Tsq :=
  if q.state = .armed ∧ q.stages[q.stage].dwellLimit ≠ 0 ∧ q.dwellExpiry = false then
    { q with
      dwellAge := q.dwellAge + 1
      dwellExpiry := decide (q.dwellAge + 1 = q.stages[q.stage].dwellLimit) }
  else q

theorem tsqTick_tsq (s : State) : (tsqTick s).tsq = s.tsq.ticked := by
  unfold tsqTick Tsq.ticked
  dsimp only
  split <;> rfl

/-- R73: the driver at a tick. -/
theorem pulseTick_pulse (s : State) : (pulseTick s).pulse = if s.pulse = .driving 0 then .driving 1 else .low := by
  unfold pulseTick
  split
  · next h => simp [h]
  · next k h => by_cases hk : k = 0 <;> simp [h, hk]

theorem effectiveDivisor_le (d : Half) : effectiveDivisor d ≤ 65536 := by
  unfold effectiveDivisor
  split
  · exact Nat.le_refl _
  · exact Nat.le_of_lt d.isLt

/-- R154: an edge below the divisor only counts. -/
theorem refclkEdge_counts {s : State} (h : s.tbs.prescale.toNat + 1 < effectiveDivisor s.tbs.divisor) :
    refclkEdge s = s.setTbs { s.tbs with prescale := s.tbs.prescale + 1 } := by
  rw [refclkEdge, if_neg (by omega)]

/-- R154: the edges that are missing up to the divisor: all but the last count, and the last is the tick. -/
theorem execAll_edges (k : Nat) : ∀ s : State, Powered s →
    s.tbs.prescale.toNat + (k + 1) = effectiveDivisor s.tbs.divisor →
    execAll (List.replicate (k + 1) .refclkRisingEdge) s = .next (tickEvent s) := by
  induction k with
  | zero =>
    intro s hp hk
    have he : exec .refclkRisingEdge s = .next (refclkEdge s) := whenPowered_up hp
    have ht : refclkEdge s = tickEvent s := by rw [refclkEdge, if_pos (by omega)]
    simp only [List.replicate, execAll, he, ht]
  | succ k ih =>
    intro s hp hk
    have he : exec .refclkRisingEdge s = .next (refclkEdge s) := whenPowered_up hp
    have hle := effectiveDivisor_le s.tbs.divisor
    have hn : (s.tbs.prescale + 1).toNat = s.tbs.prescale.toNat + 1 := by
      rw [BitVec.toNat_add]
      exact Nat.mod_eq_of_lt (by show _ + 1 < 65536; omega)
    rw [List.replicate_succ]
    simp only [execAll, he]
    rw [refclkEdge_counts (by omega), ih (s.setTbs { s.tbs with prescale := s.tbs.prescale + 1 }) hp
      (by simp only [State.setTbs_tbs, hn]; omega), tickEvent_prescale]

/-- Settles O26: no slot is due, so OTT only ages; the other consumers follow their equations; the missing edges count
up to the tick (R154). -/
theorem aTickReachesEveryConsumer : Obligations.ATickReachesEveryConsumer := by
  refine ⟨fun s hp hd hh => ?_, fun s hp hd => ?_⟩
  · have hrun := rqpTick_runs (s := mapEntries Entry.aged (ticked s)) (by simpa [ticked] using hh)
    have he : tickEvent s = pulseTick (tsqTick (rqpTick (mapEntries Entry.aged (ticked s)))) := by
      rw [tickEvent_eq, ottTick_none (s := ticked s) hd]
    have hent : ∀ n, entry (tickEvent s) n = (entry s n).aged := fun n => by simp [he, ticked]
    have htsq : (tickEvent s).tsq = s.tsq.ticked := by simp [he, tsqTick_tsq, ticked]
    refine ⟨_, exec_tick hp, hent, ?_, ?_, ?_, ?_, ?_, ?_, htsq, ?_⟩ <;> rw [he, hrun] <;> simp [pulseTick_pulse, ticked]
  · unfold PrescaleBelowDivisor at hd
    obtain ⟨k, hk⟩ : ∃ k, effectiveDivisor s.tbs.divisor - s.tbs.prescale.toNat = k + 1 :=
      ⟨effectiveDivisor s.tbs.divisor - s.tbs.prescale.toNat - 1, by omega⟩
    rw [hk, execAll_edges k s hp (by omega), exec_tick hp]

/-! ### Ticks named by an expiry (R15, R16) -/

/-- R156: what the later consumers of a tick leave to OTT. -/
theorem entry_tickEvent (s : State) (n : Fin 64) : entry (tickEvent s) n = entry (ottTick (ticked s)) n := by
  simp [tickEvent_eq]

theorem tickEvent_others (s : State) : (tickEvent s).ans = (ottTick (ticked s)).ans
    ∧ (tickEvent s).rmg = (ottTick (ticked s)).rmg ∧ (tickEvent s).tst = (ottTick (ticked s)).tst := by
  simp [tickEvent_eq]

/-- R81, R123: at its limit the hold may let a claim be granted; the rest of TCU is as OTT left it. -/
theorem rqpTick_tcu (s : State) : (rqpTick s).tcu.lossCount = s.tcu.lossCount
    ∧ (rqpTick s).tcu.syncNeeded = s.tcu.syncNeeded ∧ (rqpTick s).tcu.lastSyncHigh = s.tcu.lastSyncHigh := by
  unfold rqpTick
  dsimp only
  split
  · split
    · obtain ⟨_, _, _, _, h1, h2, _, _, _, h3⟩ := settleRoom_tcu (raise .holdExpired
        (releaseFlag (s.setRqp { s.rqp with holdAge := satInc s.rqp.holdAge })))
      exact ⟨h1, h2, h3⟩
    · exact ⟨rfl, rfl, rfl⟩
  · exact ⟨rfl, rfl, rfl⟩

theorem tickEvent_tcu (s : State) : (tickEvent s).tcu.lossCount = (ottTick (ticked s)).tcu.lossCount
    ∧ (tickEvent s).tcu.syncNeeded = (ottTick (ticked s)).tcu.syncNeeded
    ∧ (tickEvent s).tcu.lastSyncHigh = (ottTick (ticked s)).tcu.lastSyncHigh := by
  have h : (tickEvent s).tcu = (rqpTick (ottTick (ticked s))).tcu := by simp [tickEvent_eq]
  rw [h]
  exact rqpTick_tcu _

/-- `RecordStored` reads of its second state TST, the loss count and the SYNC state alone. -/
theorem RecordStored.congr {r : Record} {s t u : State} (h : RecordStored r s t) (h0 : u.tst = t.tst)
    (h1 : u.tcu.lossCount = t.tcu.lossCount) (h2 : u.tcu.syncNeeded = t.tcu.syncNeeded)
    (h3 : u.tcu.lastSyncHigh = t.tcu.lastSyncHigh) : RecordStored r s u := by
  simpa only [RecordStored, h0, h1, h2, h3] using h

/-- R101: what OTT's tick records is recorded by the tick. -/
theorem AnomalyRecorded.ofTick {a : Anomaly} {s v : State} (h : AnomalyRecorded a v (ottTick (ticked s))) :
    AnomalyRecorded a v (tickEvent s) := fun hf =>
  (h hf).congr (tickEvent_others s).2.2 (tickEvent_tcu s).1 (tickEvent_tcu s).2.1 (tickEvent_tcu s).2.2

/-- The prescale count has no part in a record. -/
theorem AnomalyRecorded.ofPrescale {a : Anomaly} {p : Half} {s t : State}
    (h : AnomalyRecorded a (s.setTbs { s.tbs with prescale := p }) t) : AnomalyRecorded a s t := h

/-- R12, R154: OTT has aged its LIVE slots at a tick, before any comparison. -/
def agedAtTick (s : State) : State := mapEntries Entry.aged (ticked s)

theorem entry_agedAtTick (s : State) (n : Fin 64) : entry (agedAtTick s) n = (entry s n).aged := by
  simp [agedAtTick, ticked]

theorem due_agedAtTick {s : State} {n : Fin 64} : Due (agedAtTick s) n ↔ DueAtNextTick s n := due_mapEntries_aged

theorem reserved_agedAtTick (s : State) : reserved (agedAtTick s) = reserved s :=
  reserved_congr_entries (fun n => by rw [entry_agedAtTick]; unfold Entry.aged; split <;> rfl)

/-- R122: the mark of an expiry has no part in the reserved count. -/
theorem reserved_marked (n : Fin 64) (s : State) :
    reserved (setEntry n { entry s n with expired := true } s) = reserved s := by
  have h : reserved (setEntry n { entry s n with expired := true } s) + (entry s n).reservation
      = reserved s + (entry s n).reservation := reserved_setEntry n { entry s n with expired := true } s
  omega

theorem ottTick_report {s : State} (h : s.ott.policy = .report) :
    ottTick (ticked s) = slotNumbers.foldl (fun t m => expireReport m t) (agedAtTick s) := by
  have hp : (mapEntries Entry.aged (ticked s)).ott.policy = .report := by simpa [ticked] using h
  simp only [ottTick, hp, agedAtTick]

theorem ottTick_abandon {s : State} (h : s.ott.policy = .abandon) : ottTick (ticked s) = makeClaims (agedAtTick s) := by
  have hp : (mapEntries Entry.aged (ticked s)).ott.policy = .abandon := by simpa [ticked] using h
  simp only [ottTick, hp, agedAtTick]

/-- R15: the anomaly and the mark of one due slot. -/
theorem expireReport_due {s : State} {n : Fin 64} (hd : Due s n) (he : (entry s n).expired = false) :
    expireReport n s = takeAnomaly (entryAnomaly .timeout n (entry s n))
      (setEntry n { entry s n with expired := true } s) := by
  simp [expireReport, due_iff.2 hd, he]

theorem expireAll_rmg (s : State) : (slotNumbers.foldl (fun t m => expireReport m t) s).rmg = s.rmg :=
  foldl_kept (fun t m => expireReport m t) (fun t => t.rmg = s.rmg) (fun t m h => by simp [h]) slotNumbers s rfl

/-- Settles O27: the expiries of the tick mark the slot whatever else is due; where nothing else is marked, the tick is
that one expiry (R15, R141). -/
theorem anExpiryUnderReportMarksTheEntry : Obligations.AnExpiryUnderReportMarksTheEntry := by
  intro s n hp hpol hd he
  have haged : (entry s n).aged = { entry s n with age := satInc (entry s n).age } := Entry.aged_live hd.1
  have hdue : Due (agedAtTick s) n := due_agedAtTick.2 hd
  have hexp : (entry (agedAtTick s) n).expired = false := by rw [entry_agedAtTick, haged]; exact he
  obtain ⟨h1, h2, h3⟩ := expireAll_marks hdue hexp
  rw [← ottTick_report hpol] at h1 h2 h3
  obtain ⟨hans, hrmg, _⟩ := tickEvent_others s
  have hent : entry (tickEvent s) n = { entry s n with age := satInc (entry s n).age, expired := true } := by
    rw [entry_tickEvent, h1, entry_agedAtTick, haged]
  have hx : exec (.expiryUnderReport n) s = .next (tickEvent s) := by
    have ho : expiresReport n s (tickEvent s) = true := by simp [expiresReport, he, hent]
    refine (whenPowered_up hp).trans ?_
    simp only [tickWhen, ho, if_true]
  refine ⟨_, hx, exec_tick hp, hent, by rw [hans]; exact h2, ?_, ?_, ?_⟩
  · rw [hans]; exact h3
  · rw [hrmg, ottTick_report hpol, expireAll_rmg]; simp [agedAtTick, ticked]
  · rintro a _ hothers rfl ha
    have hev : entryAnomaly .timeout n (entry (agedAtTick s) n) = a := by
      rw [ha, entry_agedAtTick, haged]; rfl
    have ht : ottTick (ticked s) = takeAnomaly a
        (setEntry n { entry (agedAtTick s) n with expired := true } (agedAtTick s)) := by
      rw [ottTick_report hpol, expireAll_only (n := n) (fun m hm hdm => ?_), expireReport_due hdue hexp, hev]
      have hdm' := due_agedAtTick.1 hdm
      rw [entry_agedAtTick, Entry.aged_live hdm'.1]
      exact hothers m hm hdm'
    obtain ⟨_, hc, _, hf, _⟩ := takeAnomaly_taken a
      (setEntry n { entry (agedAtTick s) n with expired := true } (agedAtTick s))
    refine ⟨?_, ?_, ?_⟩
    · refine AnomalyRecorded.ofTick ?_
      rw [ht]
      refine AnomalyRecorded.ofPrescale (p := 0) ?_
      refine (takeAnomaly_recorded a _).of_eq (by simp [agedAtTick, ticked]) (by simp [agedAtTick, ticked])
        (by simp [agedAtTick, ticked]) ?_ rfl rfl
      exact Nat.le_of_eq ((reserved_marked n _).trans (reserved_agedAtTick s))
    · have hcount : (takeAnomaly a
            (setEntry n { entry (agedAtTick s) n with expired := true } (agedAtTick s))).ans.counts[5]
          = satInc (setEntry n { entry (agedAtTick s) n with expired := true } (agedAtTick s)).ans.counts[5] := by
        subst ha
        exact hc
      rw [hans, ht]
      exact hcount.trans (by simp [agedAtTick, ticked])
    · rw [hans, ht]
      exact hf.trans (by simp [agedAtTick, ticked])

end Sys2Proof.Machine
/-! PROOFS. The tick named by an expiry under ABANDON (R16, R17, R100, R101). -/
namespace Sys2Proof.Machine

/-! ### The records of an expiry under ABANDON -/

theorem FitsAsItIs.of_eq {k : Nat} {s t : State} (h : FitsAsItIs s k) (h1 : t.tst = s.tst) (h2 : t.tcu = s.tcu)
    (h3 : reserved t = reserved s) : FitsAsItIs t k := by
  have hc : claim t = claim s := claim_congr (by rw [h2])
  simpa only [FitsAsItIs, modeOf, fill_congr h1, hc, h1, h3] using h

theorem takeAnomaly_capture (a : Anomaly) (s : State) : (takeAnomaly a s).tcu.capture = s.tcu.capture := by
  unfold takeAnomaly
  dsimp only
  split <;> simp [offerEvent, offerRecord_tcu]

/-- R99, R122, R124: a RESPONSE record whose group fits is stored, in STREAM_STALL out of the entry's reservation. -/
theorem ResponseRecordTaken.stored {r : Record} {n : Fin 64} {s t : State} (h : ResponseRecordTaken r n s t)
    (hr : modeOf s = .streamStall → r.length ≤ (entry s n).reservation)
    (hf : FitsAsItIs s ((composeGroup r s).flatten.length - if modeOf s = .streamStall then r.length else 0)) :
    RecordStored r s t := by
  obtain ⟨_, _, hstall, helse⟩ := h
  by_cases hm : modeOf s = .streamStall
  · rw [if_pos hm] at hf
    obtain ⟨_, _, hroom⟩ := hf
    exact ((hstall hm (hr hm)).1 hroom).1
  · rw [if_neg hm] at hf
    exact (helse hm hf).1

/-- R100: the RESPONSE record of an expiry under ABANDON. -/
def timeoutResponse (n : Fin 64) (s : State) : Record :=
  responseRecord .timeout (entry s n).initiator (entry s n).tag (slotCode n) (entry s n).age none s.tbs.timestamp

theorem timeoutRecord_untraced {n : Fin 64} {s : State} (h : (entry s n).traced = false) : timeoutRecord n s = s := by
  simp [timeoutRecord, h]

/-- What a traced expiry's record leaves in TST and TCU is what its offer leaves there, but for a claim granted to a
waiting request. -/
theorem timeoutRecord_traced {n : Fin 64} {s : State} (h : (entry s n).traced = true) :
    ∃ u, u = (offerRecord (timeoutResponse n s) (.reservation n) none s).2 ∧ (timeoutRecord n s).tst = u.tst
      ∧ (timeoutRecord n s).tcu.lossCount = u.tcu.lossCount ∧ (timeoutRecord n s).tcu.syncNeeded = u.tcu.syncNeeded
      ∧ (timeoutRecord n s).tcu.lastSyncHigh = u.tcu.lastSyncHigh
      ∧ (NoneWaitsForRoom s → (timeoutRecord n s).tcu = u.tcu) := by
  refine ⟨_, rfl, ?_⟩
  have he : timeoutRecord n s = settleRoom (setEntry n
      (entry (offerRecord (timeoutResponse n s) (.reservation n) none s).2 n).untraced
      (offerRecord (timeoutResponse n s) (.reservation n) none s).2) := by
    simp [timeoutRecord, timeoutResponse, h]
  obtain ⟨_, _, _, _, h1, h2, _, _, _, h3⟩ := settleRoom_tcu (setEntry n
    (entry (offerRecord (timeoutResponse n s) (.reservation n) none s).2 n).untraced
    (offerRecord (timeoutResponse n s) (.reservation n) none s).2)
  rw [he]
  refine ⟨by simp, h1.trans (by simp), h2.trans (by simp), h3.trans (by simp), fun hn => ?_⟩
  rw [settleRoom_same (fun t h => hn t (by simpa using h))]
  simp

/-- R100, R124: the RESPONSE record of a traced expiry, with room for it. -/
theorem timeoutRecord_stored {n : Fin 64} {s : State} (ht : (entry s n).traced = true)
    (hr : modeOf s = .streamStall → 1 ≤ (entry s n).reservation)
    (hf : FitsAsItIs s ((composeGroup (timeoutResponse n s) s).flatten.length
      - if modeOf s = .streamStall then 1 else 0)) : RecordStored (timeoutResponse n s) s (timeoutRecord n s) := by
  obtain ⟨u, hu, h0, h1, h2, h3, _⟩ := timeoutRecord_traced ht
  have hs := (offerRecord_response (timeoutResponse n s) n s).stored hr hf
  rw [← hu] at hs
  exact hs.congr h0 h1 h2 h3

theorem reserved_timeoutRecord {n : Fin 64} {s : State} (ht : (entry s n).traced = true) :
    reserved (timeoutRecord n s) + (entry s n).reservation = reserved s := by
  have h1 : reserved (timeoutRecord n s) = reserved (setEntry n (entry s n).untraced s) :=
    reserved_congr_entries (fun m => by simp [timeoutRecord_entry, entry_setEntry, ht])
  rw [h1]
  exact reserved_setEntry n (entry s n).untraced s

/-- R101: the ANOMALY record and, behind it, the RESPONSE record, with room for both. -/
theorem anomalyThenResponse_stored {n : Fin 64} {a : Anomaly} {q : Record} {s : State}
    (hq : q = anomalyRecord a s.tbs.timestamp) (ht : (entry s n).traced = true)
    (hr : modeOf s = .streamStall → 1 ≤ (entry s n).reservation)
    (hf : FitsAsItIs s ((composeGroup q s).flatten.length + if modeOf s = .streamStall then 0 else 1)) :
    (timeoutRecord n (takeAnomaly a s)).tst.records = s.tst.records ++ composeGroup q s ++ [timeoutResponse n s] := by
  have he : entry (takeAnomaly a s) n = entry s n := by simp
  have hresp : timeoutResponse n (takeAnomaly a s) = timeoutResponse n s := by simp [timeoutResponse]
  obtain ⟨u, hu, h0, _⟩ := timeoutRecord_traced (he ▸ ht)
  have htaken := offerRecord_response (timeoutResponse n (takeAnomaly a s)) n (takeAnomaly a s)
  rw [← hu, hresp] at htaken
  have hboth := RecordThenResponse.of_offers (r := q) (s := s) (by rw [hq]; exact takeAnomaly_recorded a s) (by simp)
    (by simp) (takeAnomaly_capture a s) htaken
  rw [h0]
  exact (hboth hf hr).1

/-- R101: the RESPONSE record and, behind it, the ANOMALY record, with room for both. -/
theorem responseThenAnomaly_stored {n : Fin 64} {a : Anomaly} {q : Record} {s : State}
    (hq : q = anomalyRecord a s.tbs.timestamp) (ht : (entry s n).traced = true) (hw : NoneWaitsForRoom s)
    (hr : modeOf s = .streamStall → 1 ≤ (entry s n).reservation)
    (hf : FitsAsItIs s ((composeGroup q s).flatten.length + if modeOf s = .streamStall then 0 else 1)) :
    (takeAnomaly a (timeoutRecord n s)).tst.records
      = s.tst.records ++ composeGroup (timeoutResponse n s) s ++ [q] := by
  obtain ⟨hoff, hstop, hroom⟩ := hf
  have hlen : (composeGroup q s).flatten.length = (composeGroup (timeoutResponse n s) s).flatten.length + 1 := by
    rw [hq]
    simp only [flatten_length, composeGroup, slotsOf_append]
    simp [slotsOf, anomalyRecord, timeoutResponse, responseRecord, Nat.add_assoc]
  have hpos : 1 ≤ (composeGroup (timeoutResponse n s) s).flatten.length := by
    rw [flatten_length]
    exact record_le_group (timeoutResponse n s) s
  have hfirst : RecordStored (timeoutResponse n s) s (timeoutRecord n s) :=
    timeoutRecord_stored ht hr ⟨hoff, hstop, by split at hroom <;> omega⟩
  have hgroup : composeGroup q (timeoutRecord n s) = [q] := hfirst.next_group (by simp)
  obtain ⟨u, hu, _, _, _, _, htcu⟩ := timeoutRecord_traced ht
  have hclaim : claim (timeoutRecord n s) = claim s :=
    claim_congr (by
      obtain ⟨_, _, _, _, hcapture⟩ := offerRecord_tcu (timeoutResponse n s) (.reservation n) none s
      rw [htcu hw, hu, hcapture])
  have htst := hfirst.1
  have hmode : modeOf (timeoutRecord n s) = modeOf s := by simp [modeOf, htst]
  have hfill : fill (timeoutRecord n s) = fill s + (composeGroup (timeoutResponse n s) s).flatten.length := by
    simp only [fill, egressTail, htst, slotsOf_append, flatten_length]; omega
  have hreserved := reserved_timeoutRecord ht
  have hsecond := takeAnomaly_recorded a (timeoutRecord n s)
  have htime : (timeoutRecord n s).tbs = s.tbs := by simp
  rw [AnomalyRecorded, htime, ← hq, hgroup] at hsecond
  have hsize : ([q] : List Record).flatten.length = 2 := by rw [hq]; rfl
  obtain ⟨hrecords, _⟩ := hsecond ⟨by rwa [hmode], fun h => by rw [htst]; exact hstop (hmode ▸ h), by
    rw [hsize, hclaim, hfill]
    split at hroom
    · next hst => have := hr hst; omega
    · omega⟩
  rw [hrecords, hgroup, htst]

/-! ### One expiry under ABANDON -/

/-- R16: the expiry has answered TIMEOUT and made the slot ORPHANED; its anomaly and its records are still to come. -/
def orphanedAt (n : Fin 64) (s : State) : State :=
  setEntry n { entry s n with state := .orphaned } (enqueue (timeoutAnswer (entry s n)) s)

theorem orphanedAt_frame (n : Fin 64) (s : State) : (orphanedAt n s).tst = s.tst ∧ (orphanedAt n s).tcu = s.tcu
    ∧ (orphanedAt n s).tbs = s.tbs ∧ (orphanedAt n s).rqp = s.rqp := by simp [orphanedAt]

theorem entry_orphanedAt (n : Fin 64) (s : State) :
    entry (orphanedAt n s) n = { entry s n with state := .orphaned } := by simp [orphanedAt]

theorem reserved_orphanedAt (n : Fin 64) (s : State) : reserved (orphanedAt n s) = reserved s :=
  reserved_congr_entries (fun m => by
    rw [orphanedAt, entry_setEntry]
    split
    · next h => rw [h]
    · simp)

theorem timeoutResponse_orphanedAt (n : Fin 64) (s : State) :
    timeoutResponse n (orphanedAt n s) = timeoutResponse n s := by
  simp only [timeoutResponse, entry_orphanedAt, orphanedAt_frame]

theorem composeGroup_orphanedAt (r : Record) (n : Fin 64) (s : State) :
    composeGroup r (orphanedAt n s) = composeGroup r s :=
  composeGroup_congr (orphanedAt_frame n s).2.2.1 (orphanedAt_frame n s).2.1 r

theorem FitsAsItIs.orphanedAt {k : Nat} {s : State} (n : Fin 64) (h : FitsAsItIs s k) :
    FitsAsItIs (orphanedAt n s) k :=
  h.of_eq (orphanedAt_frame n s).1 (orphanedAt_frame n s).2.1 (reserved_orphanedAt n s)

theorem abandon_expired {n : Fin 64} {s : State} (h : (entry s n).expired = true) :
    abandon n s = timeoutRecord n (orphanedAt n s) := by
  simp [abandon, h, timeoutAnomaly, orphanedAt, timeoutAnswer]

theorem abandon_untraced {n : Fin 64} {s : State} (h : (entry s n).expired = false) (ht : (entry s n).traced = false) :
    abandon n s = takeAnomaly (entryAnomaly .timeout n (entry s n)) (orphanedAt n s) := by
  have hu : (entry (takeAnomaly (entryAnomaly .timeout n (entry s n)) (orphanedAt n s)) n).traced = false := by
    simpa [entry_orphanedAt] using ht
  rw [← timeoutRecord_untraced hu]
  simp [abandon, h, ht, timeoutAnomaly, orphanedAt, timeoutAnswer]

/-- The two orders of the records of a traced expiry (log entry 2). -/
theorem abandon_traced {n : Fin 64} {s : State} (h : (entry s n).expired = false) (ht : (entry s n).traced = true) :
    ∃ c, abandon n s = timeoutRecord n (takeAnomaly (entryAnomaly .timeout n (entry s n)) ((orphanedAt n s).setChoices c))
      ∨ abandon n s
        = takeAnomaly (entryAnomaly .timeout n (entry s n)) (timeoutRecord n ((orphanedAt n s).setChoices c)) := by
  refine ⟨s.choices + 1, ?_⟩
  cases hc : Config.anomalyRecordFirst s.choices
  · right
    simp [abandon, h, ht, timeoutAnomaly, orphanedAt, timeoutAnswer, hc]
  · left
    simp [abandon, h, ht, timeoutAnomaly, orphanedAt, timeoutAnswer, hc]

theorem abandon_expired_records {n : Fin 64} {s : State} (h : (entry s n).expired = true)
    (ht : (entry s n).traced = true) (hr : modeOf s = .streamStall → 1 ≤ (entry s n).reservation)
    (hf : FitsAsItIs s ((composeGroup (timeoutResponse n s) s).flatten.length
      - if modeOf s = .streamStall then 1 else 0)) :
    (abandon n s).tst.records = s.tst.records ++ composeGroup (timeoutResponse n s) s := by
  have hmode : modeOf (orphanedAt n s) = modeOf s := modeOf_congr (orphanedAt_frame n s).1
  have hs := timeoutRecord_stored (n := n) (s := orphanedAt n s) (by simpa [entry_orphanedAt] using ht)
    (by simpa [entry_orphanedAt, hmode] using hr)
    (by rw [timeoutResponse_orphanedAt, composeGroup_orphanedAt, hmode]; exact hf.orphanedAt n)
  rw [abandon_expired h, hs.1, timeoutResponse_orphanedAt, composeGroup_orphanedAt, (orphanedAt_frame n s).1]

theorem abandon_untraced_recorded {n : Fin 64} {s : State} (h : (entry s n).expired = false)
    (ht : (entry s n).traced = false) : AnomalyRecorded (entryAnomaly .timeout n (entry s n)) s (abandon n s) := by
  rw [abandon_untraced h ht]
  obtain ⟨htst, htcu, htbs, _⟩ := orphanedAt_frame n s
  exact (takeAnomaly_recorded _ (orphanedAt n s)).of_eq htst htcu htbs (Nat.le_of_eq (reserved_orphanedAt n s)) rfl rfl

theorem abandon_traced_records {n : Fin 64} {q : Record} {s : State} (h : (entry s n).expired = false)
    (ht : (entry s n).traced = true) (hw : NoneWaitsForRoom s)
    (hq : q = anomalyRecord (entryAnomaly .timeout n (entry s n)) s.tbs.timestamp)
    (hr : modeOf s = .streamStall → 1 ≤ (entry s n).reservation)
    (hf : FitsAsItIs s ((composeGroup q s).flatten.length + if modeOf s = .streamStall then 0 else 1)) :
    (abandon n s).tst.records = s.tst.records ++ composeGroup q s ++ [timeoutResponse n s]
    ∨ (abandon n s).tst.records = s.tst.records ++ composeGroup (timeoutResponse n s) s ++ [q] := by
  obtain ⟨c, hc⟩ := abandon_traced h ht
  obtain ⟨htst, htcu, htbs, hrqp⟩ := orphanedAt_frame n s
  have hmode : modeOf ((orphanedAt n s).setChoices c) = modeOf s := modeOf_congr htst
  have hgroup : ∀ r, composeGroup r ((orphanedAt n s).setChoices c) = composeGroup r s :=
    fun r => composeGroup_orphanedAt r n s
  have hent : entry ((orphanedAt n s).setChoices c) n = { entry s n with state := .orphaned } := entry_orphanedAt n s
  have hresp : timeoutResponse n ((orphanedAt n s).setChoices c) = timeoutResponse n s := timeoutResponse_orphanedAt n s
  have hq' : q = anomalyRecord (entryAnomaly .timeout n (entry s n)) ((orphanedAt n s).setChoices c).tbs.timestamp := by
    simpa [htbs] using hq
  have ht' : (entry ((orphanedAt n s).setChoices c) n).traced = true := by rw [hent]; exact ht
  have hr' : modeOf ((orphanedAt n s).setChoices c) = .streamStall
      → 1 ≤ (entry ((orphanedAt n s).setChoices c) n).reservation := by rw [hmode, hent]; exact hr
  have hf' : FitsAsItIs ((orphanedAt n s).setChoices c) ((composeGroup q ((orphanedAt n s).setChoices c)).flatten.length
      + if modeOf ((orphanedAt n s).setChoices c) = .streamStall then 0 else 1) := by
    rw [hgroup, hmode]
    exact hf.orphanedAt n
  rcases hc with hc | hc
  · left
    rw [hc, anomalyThenResponse_stored hq' ht' hr' hf', hgroup, hresp]
    simp [htst]
  · right
    have hw' : NoneWaitsForRoom ((orphanedAt n s).setChoices c) := fun x hx => hw x (by simpa [hrqp] using hx)
    rw [hc, responseThenAnomaly_stored hq' ht' hw' hr' hf', hgroup, hresp]
    simp [htst]

/-! ### The tick -/

theorem agedAtTick_frame (s : State) : (agedAtTick s).tst = s.tst ∧ (agedAtTick s).tcu = s.tcu
    ∧ (agedAtTick s).rqp = s.rqp ∧ (agedAtTick s).rmg = s.rmg ∧ (agedAtTick s).ott.policy = s.ott.policy
    ∧ (agedAtTick s).tbs.timestamp = s.tbs.timestamp + 1 := by simp [agedAtTick, ticked]

theorem reservedPositions_tickEvent (s : State) :
    reservedPositions (tickEvent s) = reservedPositions (ottTick (ticked s)) := by
  have h : (tickEvent s).rqp = (rqpTick (ottTick (ticked s))).rqp := by simp [tickEvent_eq]
  exact reservedPositions_congr (by rw [h, rqpTick_isSome])

/-- A group composed at the tick reads the timestamp of the tick and TCU alone. -/
theorem composeGroup_agedAtTick (r : Record) (s : State) : composeGroup r (agedAtTick s)
    = composeGroup r { s with tbs := { s.tbs with timestamp := s.tbs.timestamp + 1 } } := by
  obtain ⟨_, htcu, _, _, _, htime⟩ := agedAtTick_frame s
  simp [composeGroup, needsLoss, needsSync, htcu, htime]

theorem FitsAsItIs.agedAtTick {k : Nat} {s : State} (h : FitsAsItIs s k) : FitsAsItIs (agedAtTick s) k :=
  h.of_eq (agedAtTick_frame s).1 (agedAtTick_frame s).2.1 (reserved_agedAtTick s)

/-- Settles O28: the lowest-numbered due slot claims a free position whatever else is due; where nothing else is due, the
tick is that one expiry, and its records are stored in the order drawn (R16, R17, R101). -/
theorem anExpiryUnderAbandonOrphansTheEntry : Obligations.AnExpiryUnderAbandonOrphansTheEntry := by
  intro s n hp hpol hd hlow hroom
  obtain ⟨htst, htcu, hrqp, hrmg, hpolicy, htime⟩ := agedAtTick_frame s
  have haged : entry (agedAtTick s) n = { entry s n with age := satInc (entry s n).age } := by
    rw [entry_agedAtTick, Entry.aged_live hd.1]
  have hdue : Due (agedAtTick s) n := due_agedAtTick.2 hd
  have hpos : (agedAtTick s).rmg.queue.length + reservedPositions (agedAtTick s) < Config.queuePositions := by
    have hres : reservedPositions (agedAtTick s) = reservedPositions s := reservedPositions_congr (by rw [hrqp])
    rw [hrmg, hres]
    exact hroom
  have hmode : modeOf (agedAtTick s) = modeOf s := modeOf_congr htst
  obtain ⟨h1, ⟨q, h2⟩, h3, h4⟩ := makeClaims_lowest (hpolicy.trans hpol) hdue
    (fun m hm hx => hlow m hm (due_agedAtTick.1 hx)) hpos
  rw [← ottTick_abandon hpol] at h1 h2 h3 h4
  obtain ⟨hans, hrmgt, htstt⟩ := tickEvent_others s
  have hent : entry (tickEvent s) n = { entry s n with
      state := .orphaned, age := satInc (entry s n).age, traced := false
      reservation := if (entry s n).traced then 0 else (entry s n).reservation } := by
    rw [entry_tickEvent, h1, haged]
    cases ht : (entry s n).traced <;> simp [Entry.abandoned, ht]
  have hx : exec (.expiryUnderAbandon n) s = .next (tickEvent s) := by
    have ho : expiresAbandon n s (tickEvent s) = true := by simp [expiresAbandon, hd.1, hent]
    refine (whenPowered_up hp).trans ?_
    simp only [tickWhen, ho, if_true]
  have honly : (∀ m : Fin 64, m ≠ n → ¬ DueAtNextTick s m) → ottTick (ticked s) = abandon n (agedAtTick s) :=
    fun h => (ottTick_abandon hpol).trans
      (makeClaims_only (hpolicy.trans hpol) hdue (fun m hm hx => h m hm (due_agedAtTick.1 hx)) hpos)
  have hresp : timeoutResponse n (agedAtTick s) = responseRecord .timeout (entry s n).initiator (entry s n).tag
      (BitVec.ofNat 7 n.val) (satInc (entry s n).age) none (s.tbs.timestamp + 1) := by
    simp only [timeoutResponse, haged, htime, slotCode]
  refine ⟨_, hx, exec_tick hp, hent, ?_, ?_, fun he => ?_, ?_, ?_⟩
  · rw [hrmgt, h2, hrmg, haged]
    exact ⟨q, by simp [timeoutAnswer]⟩
  · rw [hrmgt, reservedPositions_tickEvent]
    exact h3
  · rw [hans]
    exact h4 (by rw [haged]; exact he)
  · rintro r _ ht he hothers _ rfl hr hstall hf
    rw [hr, ← hresp, ← composeGroup_agedAtTick] at hf
    rw [htstt, honly hothers, abandon_expired_records (by rw [haged]; exact he) (by rw [haged]; exact ht)
      (by rw [hmode, haged]; exact hstall) (by rw [hmode]; exact hf.agedAtTick), htst, hr, ← hresp,
      composeGroup_agedAtTick]
  · rintro a p r _ he hothers hw rfl ha hp hr
    have hev : entryAnomaly .timeout n (entry (agedAtTick s) n) = a := by rw [ha, haged]; rfl
    have he' : (entry (agedAtTick s) n).expired = false := by rw [haged]; exact he
    refine ⟨fun ht => AnomalyRecorded.ofTick ?_, fun ht hstall hf => ?_⟩
    · have hrec := abandon_untraced_recorded he' (by rw [haged]; exact ht)
      rw [← honly hothers, hev] at hrec
      refine AnomalyRecorded.ofPrescale (p := 0) ?_
      exact hrec.of_eq htst htcu (by simp [agedAtTick, ticked]) (Nat.le_of_eq (reserved_agedAtTick s)) rfl rfl
    · rw [← composeGroup_agedAtTick] at hf
      have hrec := abandon_traced_records (q := p) he' (by rw [haged]; exact ht)
        (fun x hx => hw x (by rw [← hrqp]; exact hx)) (by rw [hev, htime]; exact hp)
        (by rw [hmode, haged]; exact hstall) (by rw [hmode]; exact hf.agedAtTick)
      rw [← honly hothers, ← htstt, htst, hresp, ← hr] at hrec
      simpa only [composeGroup_agedAtTick] using hrec

end Sys2Proof.Machine
/-! PROOFS. The power-on reset and the words of the register window (R13, R82, R93, R127, R143, R149, R157, R160, R180,
R187, R188, R191, R197 to R199). -/
namespace Sys2Proof.Machine

/-! ### The power-on reset -/

theorem exec_powerOnReset (s : State) : exec .powerOnReset s = .next (powerOn s) := rfl
theorem exec_powerOnResetEnd (s : State) :
    exec .powerOnResetEnd s = .next (s.setPins { s.pins with porst := false }) := rfl

theorem powerOn_vectors (s : State) : (∀ n : Fin 8, (powerOn s).mu.channels[n] = Channel.reset)
    ∧ (∀ n : Fin 4, (powerOn s).tsq.stages[n] = Stage.reset) ∧ (∀ k : Fin 6, (powerOn s).ans.counts[k] = 0) := by
  simp [powerOn, State.reset]

theorem powerOn_counts (s : State) : fill (powerOn s) = 0 ∧ reserved (powerOn s) = 0 ∧ claim (powerOn s) = 0 :=
  ⟨rfl, reserved_eq_zero (fun n => by rw [powerOn_entry]; rfl), rfl⟩

theorem powerOn_outputs (s : State) : alertLine (powerOn s) = false ∧ misoByte (powerOn s) = none
    ∧ upstreamRequestReady (powerOn s) = false ∧ downstreamResponseReady (powerOn s) = false
    ∧ downstreamOffer (powerOn s) = none ∧ upstreamOffer (powerOn s) = none := by
  exact ⟨by simp [alertLine, powerOn, State.reset], rfl, rfl, rfl, rfl, rfl⟩

/-- Settles O3: every field of `powerOn` but the pins is that of `State.reset`. -/
theorem powerOnResetGivesThePowerOnValues : Obligations.PowerOnResetGivesThePowerOnValues := by
  refine ⟨rfl, fun s => ⟨exec_powerOnResetEnd s, _, exec_powerOnReset s, powerOn_entry s, ?_⟩⟩
  obtain ⟨hchannels, hstages, hcounts⟩ := powerOn_vectors s
  obtain ⟨hfill, hreserved, hclaim⟩ := powerOn_counts s
  obtain ⟨halert, hmiso, hup, hdown, hdownOffer, hupOffer⟩ := powerOn_outputs s
  refine ⟨rfl, rfl, rfl, hchannels, hstages, rfl, rfl, rfl, rfl, rfl, rfl, rfl, rfl, rfl, rfl, rfl, rfl, rfl, rfl, rfl,
    rfl, rfl, rfl, rfl, rfl, rfl, rfl, rfl, rfl, rfl, rfl, rfl, rfl, rfl, rfl, rfl, rfl, rfl, hfill, hreserved, hclaim,
    rfl, hcounts, rfl, rfl, rfl, rfl, halert, rfl, rfl, rfl, rfl, rfl, hmiso, hup, hdown, hdownOffer, hupOffer⟩

/-! ### The configuration words -/

/-- R188: a frame of one word outside the lock writes that word. -/
theorem writeFrame_single {index : Half} {x : WinWord} {w : Word} {s : State} (hb : BetweenFrames s)
    (hx : wordAt index.toNat = some x) (hl : locked x = false) (hr : readOnly x = false) :
    writeFrame index 1 [w] s = (writeWord s x w).setMgp (Mgp.idle .ok) := by
  have hwords : rangeWords index 1 = [some x] := by simp [rangeWords, hx, List.range_succ]
  rw [writeFrame_ok hb (by simp [payloadComplete, countValid]) (by rw [rangeInWindow, hwords]; rfl)
    (.inl (by rw [rangeHas, hwords]; simp [hl])) (by rw [rangeHas, hwords]; simp [hr]), hwords]
  rfl

/-- Settles O40: six frames of one word and the frame of the two capture words. -/
theorem configurationWritesSetTheirFields : Obligations.ConfigurationWritesSetTheirFields := by
  intro w w2 s hb
  have hp := powered_of_between hb
  have single : ∀ (index : Half) (x : WinWord), wordAt index.toNat = some x → locked x = false → readOnly x = false →
      whenPowered (writeFrame index 1 [w]) s = .next ((writeWord s x w).setMgp (Mgp.idle .ok)) :=
    fun index x hx hl hr => by rw [whenPowered_up hp, writeFrame_single hb hx hl hr]
  refine ⟨single 0x000 .timeout rfl rfl rfl, single 0x001 .holdLimit rfl rfl rfl, single 0x002 .divisor rfl rfl rfl, ?_,
    single 0x093 .threshold rfl rfl rfl, single 0x0A0 .alertEnable rfl rfl rfl,
    single 0x0B0 .anomalyMasks rfl rfl rfl⟩
  have hwords : rangeWords 0x091 2 = [some .captureSelection, some .dataOption] := rfl
  refine (whenPowered_up hp).trans ?_
  rw [writeFrame_ok hb rfl rfl (.inl rfl) rfl, hwords]
  rfl

end Sys2Proof.Machine
/-! PROOFS. What the register window and the entry frames show (R24, R139, R187, R191, R197, R198). -/
namespace Sys2Proof.Machine

/-! ### Layouts joined with `++` -/

theorem append_eq_place {v w : Nat} (x : BitVec v) (y : BitVec w) :
    x ++ y = place (v + w) w x ||| place (v + w) 0 y := by
  rw [← place_self (x ++ y), place_append, Nat.zero_add]

theorem place_low {n w : Nat} (x : BitVec w) : place n 0 x = x.setWidth n := by simp [place]

theorem place_widened {n lo v w : Nat} {x : BitVec w} (h : w ≤ v) : place n lo (x.setWidth v) = place n lo x := by
  rw [place, place, BitVec.setWidth_setWidth (by omega)]

theorem zero_place_or {n lo w : Nat} (x : BitVec n) : place n lo (0#w) ||| x = x := by simp [place_zero]
theorem or_zero_place {n lo w : Nat} (x : BitVec n) : x ||| place n lo (0#w) = x := by simp [place_zero]
theorem or_left_comm_bits {n : Nat} (x y z : BitVec n) : x ||| (y ||| z) = y ||| (x ||| z) := by ac_rfl

theorem policy_code (p : Policy) : p.code = BitVec.ofBool (decide (p = .abandon)) := by cases p <;> rfl
theorem source_code (p : Source) : p.code = BitVec.ofBool (decide (p = .queue)) := by cases p <;> rfl
theorem kindCode_eq (k : Kind) : kindCode k = BitVec.ofBool (decide (k = .write)) := by cases k <;> rfl
theorem classCode_eq (c : TxnClass) : classCode c = BitVec.ofBool (decide (c = .privileged)) := by cases c <;> rfl

/-! ### The read-only words -/

/-- R197, R198: the words of several fields; each is its fields from the highest bit down, with zeros between them. -/
theorem readWord_layouts (s : State) :
    readWord s .anomalyFlags = (0#23 ++ BitVec.ofBool s.ans.first.isSome ++ 0#2 ++ s.ans.flags : BitVec 32)
    ∧ readWord s .anomalyCounts0
      = (s.ans.counts[3] ++ s.ans.counts[2] ++ s.ans.counts[1] ++ s.ans.counts[0] : BitVec 32)
    ∧ readWord s .anomalyCounts1 = (0#16 ++ s.ans.counts[5] ++ s.ans.counts[4] : BitVec 32)
    ∧ readWord s .sequencer = (0#22 ++ BitVec.ofBool s.tsq.command.isSome ++ BitVec.ofBool s.tsq.dwellExpiry
        ++ BitVec.ofBool s.tsq.an ++ BitVec.ofBool s.tsq.xt ++ BitVec.ofBool s.tsq.rspReport.isSome
        ++ BitVec.ofBool s.tsq.rqpReport.isSome ++ BitVec.ofNat 2 s.tsq.stage.val ++ s.tsq.state.code : BitVec 32)
    ∧ readWord s .exitCounters = (0#4 ++ s.tsq.counter1 ++ 0#4 ++ s.tsq.counter0 : BitVec 32)
    ∧ readWord s .paths = (0#23 ++ BitVec.ofBool s.rqp.held ++ 0#2 ++ rspPhaseCode s
        ++ BitVec.ofBool s.rqp.inProcess.isSome ++ rqpPhaseCode s : BitVec 32)
    ∧ readWord s .tableCounts = (0#1 ++ s.ott.purgeCount ++ 0#1 ++ BitVec.ofNat 7 (slotCount .orphaned s) ++ 0#1
        ++ BitVec.ofNat 7 (slotCount .live s) ++ 0#1 ++ BitVec.ofNat 7 (slotCount .free s) : BitVec 32)
    ∧ readWord s .timeoutInForce = (0#15 ++ BitVec.ofBool (decide (s.ott.policy = .abandon)) ++ s.ott.timeout : BitVec 32)
    ∧ readWord s .merge = (0#24 ++ offerCode s.rmg.offer ++ BitVec.ofBool (decide (s.rmg.pointer = .queue))
        ++ BitVec.ofBool s.rqp.inProcess.isSome ++ BitVec.ofNat 4 s.rmg.queue.length : BitVec 32)
    ∧ readWord s .store = (0#6 ++ BitVec.ofBool s.tcu.capturing ++ BitVec.ofBool s.tst.stopped
        ++ BitVec.ofNat 8 (reserved s) ++ 0#3 ++ BitVec.ofNat 13 (fill s) : BitVec 32)
    ∧ readWord s .counts = (s.tcu.lossCount ++ s.tst.overwrite : BitVec 32) := by
  refine ⟨?_, ?_, ?_, ?_, ?_, ?_, ?_, ?_, ?_, ?_, ?_⟩ <;>
    simp only [readWord, timeoutWord, sequencerWord, policy_code, source_code, ↓append_eq_place, ↓place_append,
      zero_place_or, or_zero_place, flag, Nat.reduceAdd, BitVec.or_comm, or_left_comm_bits, BitVec.or_assoc]

/-- R139, R197: the words of the first-anomaly record. -/
theorem readWord_first {f : FirstAnomaly} {s : State} (h : s.ans.first = some f) :
    readWord s .firstAnomaly = (f.anomaly.tag ++ 0#3 ++ f.anomaly.initiator ++ 0#1 ++ f.anomaly.slot ++ 0#5
        ++ BitVec.ofNat 3 f.anomaly.cls.code.val : BitVec 32)
    ∧ readWord s .firstAddressLow = f.anomaly.addr.extractLsb' 0 32
    ∧ readWord s .firstAddressHigh = (f.anomaly.addr.extractLsb' 32 8).setWidth 32
    ∧ readWord s .firstTimestamp = f.stamp := by
  refine ⟨?_, ?_, ?_, ?_⟩
  · simp only [readWord, firstWord, h, ↓append_eq_place, ↓place_append, zero_place_or, Nat.reduceAdd, BitVec.or_comm,
      or_left_comm_bits, BitVec.or_assoc]
  · simp only [readWord, firstAddr, h, addrLow]
  · simp only [readWord, firstAddr, h, addrHigh]
  · simp only [readWord, firstStamp, h]

theorem readWord_first_none {s : State} (h : s.ans.first = none) : readWord s .firstAnomaly = 0
    ∧ readWord s .firstAddressLow = 0 ∧ readWord s .firstAddressHigh = 0 ∧ readWord s .firstTimestamp = 0 := by
  simp [readWord, firstWord, firstAddr, firstStamp, addrLow, addrHigh, h]

theorem rqpPhaseCode_eq (s : State) : rqpPhaseCode s = match s.rqp.inProcess.map RqpTxn.phase with
    | none => 0#3 | some .checks => 1#3 | some .verdictWait => 2#3 | some .holdPoint => 3#3
    | some .roomWait => 4#3 | some (.offered _) => 5#3 := by
  unfold rqpPhaseCode
  cases s.rqp.inProcess with
  | none => rfl
  | some t => cases h : t.phase <;> simp [h, RqpPhase.code]

theorem rspPhaseCode_eq (s : State) : rspPhaseCode s = match s.rsp.inProcess.map RspTxn.phase with
    | none => 0#2 | some .checks => 1#2 | some .verdictWait => 2#2 | some (.offered _) => 3#2 := by
  unfold rspPhaseCode
  cases s.rsp.inProcess with
  | none => rfl
  | some t => cases h : t.phase <;> simp [h, RspPhase.code]

theorem readWord_hits (n : Fin 8) (s : State) :
    (readWord s (.channel n 11)).extractLsb' 0 16 = (s.mu.channels[n]).hitCount
    ∧ (readWord s (.channel n 11)).extractLsb' 16 16 = (BitVec.ofBool (s.mu.channels[n]).matchFlag).setWidth 16 := by
  have h : readWord s (.channel n 11)
      = ((BitVec.ofBool (s.mu.channels[n]).matchFlag).setWidth 16 ++ (s.mu.channels[n]).hitCount : BitVec 32) := by
    show place 32 0 (s.mu.channels[n]).hitCount ||| place 32 16 (flag (s.mu.channels[n]).matchFlag) = _
    rw [append_eq_place, BitVec.or_comm, place_widened (by decide)]
    exact rfl
  rw [h]
  exact ⟨BitVec.extractLsb'_append_eq_right, BitVec.extractLsb'_append_eq_left⟩

/-- R24, R191: the five words of an entry. -/
theorem Entry.words_layout (e : Entry) : e.words =
    [(e.tag ++ 0#3 ++ e.initiator ++ e.lenM1 ++ 0#2 ++ BitVec.ofBool (decide (e.cls = .privileged))
        ++ BitVec.ofBool (decide (e.kind = .write)) ++ BitVec.ofNat 3 e.reservation ++ BitVec.ofBool e.traced
        ++ BitVec.ofBool e.expired ++ BitVec.ofBool e.gen ++ e.state.code : BitVec 32),
     (0#8 ++ e.addr.extractLsb' 32 8 ++ 0#8 ++ e.context : BitVec 32), e.addr.extractLsb' 0 32, e.stamp,
     e.age.setWidth 32] := by
  simp only [Entry.words, kindCode_eq, classCode_eq, addrLow, ← place_low e.age, ↓append_eq_place, ↓place_append,
    zero_place_or, or_zero_place, flag, Nat.reduceAdd, BitVec.or_comm, or_left_comm_bits, BitVec.or_assoc]

/-! ### The frames that read -/

/-- A stretch of a list of equal parts joined together is one part. -/
theorem part_of_flatMap {α β : Type} {f : α → List β} {c : Nat} (l : List α) (k : Nat) (hk : k < l.length)
    (hc : ∀ x ∈ l, (f x).length = c) : ((l.flatMap f).drop (c * k)).take c = f l[k] := by
  induction l generalizing k with
  | nil => exact absurd hk (Nat.not_lt_zero k)
  | cons x l ih =>
    have hx : (f x).length = c := hc x (by simp)
    cases k with
    | zero => simp [hx]
    | succ k =>
      have hdrop : ((x :: l).flatMap f).drop (c * (k + 1)) = (l.flatMap f).drop (c * k) := by
        rw [List.flatMap_cons, Nat.mul_succ, Nat.add_comm, ← List.drop_drop, ← hx, List.drop_left]
      rw [hdrop]
      exact ih k (by simpa using hk) (fun y hy => hc y (by simp [hy]))

theorem length_flatMap_parts {α β : Type} {f : α → List β} {c : Nat} (l : List α)
    (hc : ∀ x ∈ l, (f x).length = c) : (l.flatMap f).length = c * l.length := by
  induction l with
  | nil => rfl
  | cons x l ih =>
    have hx : (f x).length = c := hc x (by simp)
    rw [List.flatMap_cons, List.length_append, hx, ih (fun y hy => hc y (by simp [hy])), List.length_cons, Nat.mul_succ,
      Nat.add_comm]

theorem rangeInWindow_iff {index : Half} {count : Byte} : rangeInWindow index count = true
    ↔ 1 ≤ count.toNat ∧ count.toNat ≤ 64 ∧ ∀ k < count.toNat, wordAt (index.toNat + k) ≠ none := by
  have hcount : countValid count = true ↔ 1 ≤ count.toNat ∧ count.toNat ≤ 64 := decide_eq_true_iff
  simp [rangeInWindow, rangeWords, hcount, Option.isSome_iff_ne_none, and_assoc]

/-- R187: what one index of a range adds to a READ_REG snapshot. -/
def shownBytes (s : State) (w : Option WinWord) : List Byte := (w.map (fun x => wordBytes (readWord s x))).getD []

theorem readRegData_eq (index : Half) (count : Byte) (s : State) :
    readRegData index count s = (rangeWords index count).flatMap (shownBytes s) :=
  congrArg (fun f => (rangeWords index count).flatMap f) (funext (fun w => by cases w <;> rfl))

/-- R187: the bytes of a READ_REG snapshot are four for each word, in ascending index. -/
theorem readRegData_parts {index : Half} {count : Byte} {s : State} (h : rangeInWindow index count = true) :
    (readRegData index count s).length = 4 * count.toNat
    ∧ ∀ k x, k < count.toNat → wordAt (index.toNat + k) = some x →
        ((readRegData index count s).drop (4 * k)).take 4 = wordBytes (readWord s x) := by
  have hsome : ∀ w ∈ rangeWords index count, w.isSome = true := by
    simp only [rangeInWindow, Bool.and_eq_true, List.all_eq_true] at h
    exact h.2
  have hparts : ∀ w ∈ rangeWords index count, (shownBytes s w).length = 4 := by
    intro w hw
    obtain ⟨x, rfl⟩ := Option.isSome_iff_exists.1 (hsome w hw)
    rfl
  have hlen : (rangeWords index count).length = count.toNat := by simp [rangeWords]
  rw [readRegData_eq]
  refine ⟨?_, fun k x hk hx => ?_⟩
  · rw [length_flatMap_parts _ hparts, hlen]
  · refine (part_of_flatMap _ k (by omega) hparts).trans ?_
    have hw : (rangeWords index count)[k]'(by omega) = some x := by simp [rangeWords, hx]
    rw [hw]
    rfl

/-- Settles O37: the frames fix the words as they stand, and each word and entry is its fields in their places. -/
theorem readsShowTheState : Obligations.ReadsShowTheState := by
  refine ⟨fun index count s hb => ?_, fun slot s hb => ?_, fun s => ?_, Entry.words_layout⟩
  · have hx : exec (.readReg index count) s = .next (sendHeader (readRegBytes index count) (takeReadReg index count) s) :=
      whenPowered_up (powered_of_between hb)
    rw [sendHeader_between hb] at hx
    by_cases h : rangeInWindow index count = true
    · have hst : readRegStatus index count = .ok := by simp [readRegStatus, h]
      simp only [takeReadReg, hst, if_true] at hx
      obtain ⟨hlen, hpart⟩ := readRegData_parts (s := s) h
      exact ⟨_, hx, rfl, fun _ => ⟨rfl, rfl, _, rfl, hlen, hpart⟩, fun hn => absurd (rangeInWindow_iff.1 h) hn⟩
    · have hst : readRegStatus index count ≠ .ok := by simp [readRegStatus, h]
      simp only [takeReadReg, if_neg hst] at hx
      exact ⟨_, hx, rfl, fun hy => absurd (rangeInWindow_iff.2 hy) h, fun _ => ⟨rfl, rfl⟩⟩
  · have hx : exec (.readEntry slot) s = .next (sendHeader (readEntryBytes slot) (takeReadEntry slot) s) :=
      whenPowered_up (powered_of_between hb)
    rw [sendHeader_between hb] at hx
    by_cases h : slot.toNat < 64
    · simp only [takeReadEntry, dif_pos h] at hx
      exact ⟨_, hx, fun _ => ⟨rfl, rfl⟩, fun hn => absurd h (Nat.not_lt.2 hn)⟩
    · simp only [takeReadEntry, dif_neg h] at hx
      exact ⟨_, hx, fun hn => absurd hn h, fun _ => ⟨rfl, rfl⟩⟩
  · obtain ⟨hflags, hcounts0, hcounts1, hseq, hexit, hpaths, htable, htimeout, hmerge, hstore, hcounts⟩ :=
      readWord_layouts s
    rw [rqpPhaseCode_eq, rspPhaseCode_eq] at hpaths
    exact ⟨fun n => readWord_hits n s, place_low _, hflags, hcounts0, hcounts1, readWord_first_none,
      fun f hf => readWord_first hf, hseq, hexit, place_low _, hpaths, place_low _, htable, htimeout, hmerge, hstore,
      hcounts, rfl⟩

end Sys2Proof.Machine
/-! PROOFS. Watch channels: the conditions in bytes and bits (R31 to R40), the report of a request with hits (R29, R41,
R42, R51), CLEAR_MATCH and PURGE_ORPHANS (R20, R43), and the program words of channels and stages (R27, R46, R188). -/
namespace Sys2Proof.Machine

/-! ### The conditions of a channel (R31 to R35) -/

theorem windowMeets_iff {c : Channel} {first last : Nat} (h : first ≤ last) :
    windowMeets c first last = true ↔ ∃ b, first ≤ b ∧ b ≤ last ∧ InWindow c b := by
  simp only [windowMeets, InWindow, decide_eq_true_eq]
  constructor
  · rintro ⟨_, _, _⟩
    exact ⟨max first c.windowLow.toNat, by omega⟩
  · rintro ⟨b, _, _, _, _⟩
    omega

/-- R31: the window meets the span when they share a byte. -/
theorem windowMeets_span {c : Channel} {a : Addr} {l : BitVec 4} :
    windowMeets c (base16 a) (spanEnd a l) = true ↔ ∃ b, InSpan a l b ∧ InWindow c b := by
  have hpos : 0 < beatsOf l := Nat.succ_pos _
  have hend : ∀ b, b ≤ spanEnd a l ↔ b < base16 a + 16 * beatsOf l := fun b => by simp only [spanEnd]; omega
  rw [windowMeets_iff ((hend _).2 (by omega))]
  simp only [InSpan, hend, and_assoc]

theorem addressHolds_inside {c : Channel} {t : Watched} (h : c.outside = false) :
    addressHolds c t = true ↔ ∃ b, InSpan t.addr t.lenM1 b ∧ InWindow c b := by
  rw [← windowMeets_span, addressHolds, h, Bool.bne_false]

theorem addressHolds_outside {c : Channel} {t : Watched} (h : c.outside = true) :
    addressHolds c t = true ↔ ¬ ∃ b, InSpan t.addr t.lenM1 b ∧ InWindow c b := by
  rw [← windowMeets_span, addressHolds, h, Bool.bne_true, Bool.not_eq_true', Bool.not_eq_true]

/-- R32, R35: a two-bit filter asks for one value in code 1, for the other in code 2, and for nothing otherwise. -/
theorem codeFilter_iff {f : BitVec 2} {p q : Prop} [Decidable p] [Decidable q] :
    (if f = 1 then decide p else if f = 2 then decide q else true) = true ↔ (f = 1 → p) ∧ (f = 2 → q) := by
  by_cases h1 : f = 1
  · subst h1
    simp
  · by_cases h2 : f = 2
    · subst h2
      simp
    · rw [if_neg h1, if_neg h2]
      simp only [h1, h2, false_implies, and_self]

theorem kindHolds_iff {f : BitVec 2} {k : Kind} :
    kindHolds f k = true ↔ (f = 1 → k = .read) ∧ (f = 2 → k = .write) := codeFilter_iff

theorem classHolds_iff {f : BitVec 2} {k : TxnClass} :
    classHolds f k = true ↔ (f = 1 → k = .ordinary) ∧ (f = 2 → k = .privileged) := codeFilter_iff

theorem statusHolds_iff {f : BitVec 2} {o : Option DownStatus} :
    statusHolds f o = true ↔ ∀ st, o = some st → (f = 1 → st = .okay) ∧ (f = 2 → st = .fault) := by
  cases o with
  | none => simp [statusHolds]
  | some x =>
    rw [show statusHolds f (some x) = true ↔ _ from codeFilter_iff]
    simp only [Option.some.injEq, forall_eq']

/-- R33, R39: the bits under the mask agree. -/
theorem maskedEq_iff {w : Nat} {x value mask : BitVec w} :
    maskedEq x value mask = true ↔ ∀ i < w, mask.getLsbD i = true → x.getLsbD i = value.getLsbD i := by
  simp only [maskedEq, decide_eq_true_eq, BitVec.eq_of_getLsbD_eq_iff, BitVec.getLsbD_and, BitVec.getLsbD_xor,
    BitVec.ofNat_eq_ofNat, BitVec.getLsbD_zero]
  refine forall₂_congr fun i _ => ?_
  cases mask.getLsbD i <;> simp

theorem lengthHolds_iff {c : Channel} {l : BitVec 4} :
    lengthHolds c l = true ↔ c.lengthMin.toNat ≤ l.toNat + 1 ∧ l.toNat + 1 ≤ c.lengthMax.toNat := decide_eq_true_iff

theorem channelMatches_iff {c : Channel} {t : Watched} : channelMatches c t = true ↔
    c.enable = true ∧ c.side = t.side ∧ addressHolds c t = true ∧ kindHolds c.kindFilter t.kind = true
    ∧ maskedEq t.initiator c.initValue c.initMask = true ∧ maskedEq t.context c.ctxValue c.ctxMask = true
    ∧ classHolds c.classFilter t.cls = true ∧ lengthHolds c t.lenM1 = true
    ∧ statusHolds c.statusFilter t.status = true ∧ dataHolds c t = true := by
  simp only [channelMatches, Bool.and_eq_true, decide_eq_true_eq, and_assoc]

/-- Settles O50: each condition in the words of its rule, a channel's match being their conjunction. -/
theorem theAddressConditionIsAboutBytes : Obligations.TheAddressConditionIsAboutBytes := by
  refine ⟨fun c t => ⟨addressHolds_inside, addressHolds_outside⟩, fun c t => ?_,
    fun r => ⟨rfl, rfl, rfl, rfl, rfl, rfl, rfl, rfl⟩, fun e st data => ⟨rfl, rfl, rfl, rfl, rfl, rfl, rfl, rfl⟩⟩
  rw [channelMatches_iff, kindHolds_iff, maskedEq_iff, maskedEq_iff, classHolds_iff, lengthHolds_iff, statusHolds_iff]
  simp only [and_assoc]

/-! ### The data condition (R36 to R39) -/

theorem mem_candidateLanes {sel : BitVec 3} {n : Nat} :
    n ∈ candidateLanes sel ↔ n < 4 ∧ (sel.toNat < 4 → n = sel.toNat) := by
  by_cases h : sel.toNat < 4
  · simp only [candidateLanes, h, if_true, List.mem_singleton, true_implies]
    omega
  · simp only [candidateLanes, h, if_false, List.mem_cons, List.not_mem_nil, or_false, false_implies, and_true]
    omega

theorem beatQualifies_iff {c : Channel} {t : Watched} {k : Nat} : beatQualifies c t k = true ↔
    (c.windowBound = true →
      ∃ a, base16 t.addr + 16 * k ≤ a ∧ a < base16 t.addr + 16 * k + 16 ∧ InWindow c a) := by
  have hlast : ∀ a, a < base16 t.addr + 16 * k + 16 ↔ a ≤ base16 t.addr + 16 * k + 15 := fun a => Nat.lt_succ_iff
  simp only [hlast, ← windowMeets_iff (Nat.le_add_right (base16 t.addr + 16 * k) 15), beatQualifies]
  cases c.windowBound <;> simp

/-- R36, R37: the lane's enable flags are those of its four bytes. -/
theorem laneEnabled_iff {e : BitVec 16} {n : Nat} : laneEnabled e n = true ↔ ∀ i < 4, e.getLsbD (4 * n + i) = true := by
  simp only [laneEnabled, decide_eq_true_eq, BitVec.eq_of_getLsbD_eq_iff, BitVec.getLsbD_extractLsb',
    BitVec.getLsbD_allOnes]
  exact forall₂_congr fun i hi => by simp only [hi, decide_true, Bool.true_and]

/-- R36: bit `i` of a lane in the beat. -/
theorem getLsbD_lane {d : BeatData} {n i : Nat} (hi : i < 32) : (lane d n).getLsbD i = d.getLsbD (32 * n + i) := by
  simp [lane, hi]

theorem lanePasses_iff {c : Channel} {b : BeatData × BitVec 16} {n : Nat} : lanePasses c b n = true ↔
    (∀ i < 4, b.2.getLsbD (4 * n + i) = true)
    ∧ ∀ i < 32, c.dataMask.getLsbD i = true → b.1.getLsbD (32 * n + i) = c.dataValue.getLsbD i := by
  rw [lanePasses, Bool.and_eq_true, laneEnabled_iff, maskedEq_iff]
  exact and_congr_right fun _ => forall₂_congr fun i hi => by rw [getLsbD_lane hi]

theorem dataHolds_off {c : Channel} {t : Watched} (h : c.dataFilter = false) : dataHolds c t = true := by
  simp [dataHolds, h]

/-- R36 to R39: with the filter on, some candidate lane of some qualifying beat passes. -/
theorem dataHolds_on {c : Channel} {t : Watched} (h : c.dataFilter = true) : dataHolds c t = true ↔
    ∃ k b n, t.beats[k]? = some b ∧ n ∈ candidateLanes c.laneSelect ∧ beatQualifies c t k = true
      ∧ lanePasses c b n = true := by
  simp only [dataHolds, h, Bool.not_true, Bool.false_or, List.any_eq_true, Bool.and_eq_true,
    List.mem_zipIdx_iff_getElem?]
  constructor
  · rintro ⟨⟨b, k⟩, hb, hq, n, hn, hp⟩
    exact ⟨k, b, n, hb, hn, hq, hp⟩
  · rintro ⟨k, b, n, hb, hn, hq, hp⟩
    exact ⟨⟨b, k⟩, hb, hq, n, hn, hp⟩

/-- Settles O51: the lane that passes, with its beat and what qualifies it in the words of R36 to R39. -/
theorem theDataConditionFindsALane : Obligations.TheDataConditionFindsALane := by
  refine ⟨fun c t => dataHolds_off, fun c t h => ?_, fun r => ⟨fun hk => if_pos hk, fun hk => ?_⟩,
    fun e st data => ⟨fun hr => if_pos hr, fun hr => ?_⟩⟩
  · simp only [dataHolds_on h, mem_candidateLanes, beatQualifies_iff, lanePasses_iff, and_assoc]
  · exact if_neg (by simp [hk])
  · exact if_neg (by rcases hr with hr | hr <;> simp [hr])

/-! ### The report of a request with hits (R29, R41, R42, R51) -/

theorem recordHits_channel (hits : Byte) (s : State) (n : Fin 8) : (recordHits hits s).mu.channels[n] =
    if hits.getLsbD n.val then (s.mu.channels[n]).hit else s.mu.channels[n] := by
  simp [recordHits]

/-- R41, R51: the evaluation of a request that meets channels. -/
theorem evaluateRequest_hits {r : Request} {s : State} (h : ∃ k, Matches s (watchedRequest r) k) :
    evaluateRequest r s =
      { s with
        mu := (recordHits (hitSet s.mu.channels (watchedRequest r)) s).mu
        tsq := { s.tsq with rqpReport := some (hitSet s.mu.channels (watchedRequest r)) }
        rqp := { s.rqp with
          inProcess := some { req := r, phase := .verdictWait, hits := hitSet s.mu.channels (watchedRequest r),
                              decided := false } } } := by
  have hz : hitSet s.mu.channels (watchedRequest r) ≠ 0 := fun hh => by
    obtain ⟨k, hk⟩ := h
    exact hitSet_eq_zero.1 hh k hk
  rw [evaluateRequest, if_neg hz]
  rfl

/-- R166, R168: an accepted request that passes its checks is evaluated. -/
theorem exec_upstreamRequestTake_evaluates {r : Request} {s : State} (ha : Accepting s) (hl : Legal r)
    (hf : PairFree r s) : exec (.upstreamRequestTake r) s = .next (evaluateRequest r s) := by
  obtain ⟨hup, hacc⟩ := acceptsRequest_iff.2 ha
  refine (whenLinkUp_up hup).trans ?_
  simp only [takeRequest, hacc, legal_iff.2 hl, duplicateOf_none.2 hf, if_true, Bool.false_eq_true, if_false]

/-- Settles O6: the request is evaluated, and its hit set is the set of channels that match. -/
theorem aRequestWithHitsIsReported : Obligations.ARequestWithHitsIsReported := by
  intro r s ha hl hf hhit
  have hbit : ∀ n : Fin 8, (hitSet s.mu.channels (watchedRequest r)).getLsbD n.val = true
      ↔ Matches s (watchedRequest r) n := fun n => by rw [hitSet_bit]; rfl
  refine ⟨hitSet s.mu.channels (watchedRequest r), _, hbit, fun n hn => ?_, fun n hn => ?_,
    (exec_upstreamRequestTake_evaluates ha hl hf).trans (congrArg _ (evaluateRequest_hits hhit))⟩
  · rw [recordHits_channel, if_pos ((hbit n).2 hn)]
    rfl
  · rw [recordHits_channel, if_neg (mt (hbit n).1 hn)]

/-! ### CLEAR_MATCH and PURGE_ORPHANS (R20, R43) -/

theorem clearMatches_channel (s : State) (n : Fin 8) :
    (clearMatches s).mu.channels[n] = (s.mu.channels[n]).clearMatch := by
  simp [clearMatches]

/-- R193: an action command without payload, sent whole between frames, writes MGP behind its effect. -/
theorem whenPowered_actionFrame {c : Command} {effect : State → State} {s : State} (hb : BetweenFrames s)
    (hp : (effect s).pins = s.pins) :
    whenPowered (actionFrame c effect) s = .next ((effect s).setMgp (Mgp.idle .ok)) := by
  rw [whenPowered_up (powered_of_between hb), actionFrame_between hb, closeFrame_between hb hp]

/-- R20: the purge count holds every number of slots. -/
theorem purge_count (s : State) : (purge s).ott.purgeCount.toNat = slotCount .orphaned s := by
  have hle : slotCount .orphaned s ≤ 64 := Nat.le_trans List.countP_le_length (Nat.le_of_eq Vector.length_toList)
  simp only [purge, State.setOtt_ott, BitVec.toNat_ofNat]
  omega

theorem setOtt_setOtt (x y : Ott) (s : State) : (s.setOtt x).setOtt y = s.setOtt y := rfl

/-- R20: the purge reaches OTT alone. -/
theorem purge_reaches_table (s : State) : ∃ o, purge s = s.setOtt o := by
  rw [purge, mapEntries, setOtt_setOtt]
  exact ⟨_, rfl⟩

/-- What a command that reaches OTT alone leaves once its frame is closed. -/
theorem setMgp_of_setOtt {o : Ott} {m : Mgp} {s t : State} (h : t = s.setOtt o) :
    t.setMgp m = { s with ott := (t.setMgp m).ott, mgp := m } := by
  subst h
  rfl

/-- Settles O46: both commands map their effect over the records of one block. -/
theorem clearMatchAndPurgeReachEveryRecord : Obligations.ClearMatchAndPurgeReachEveryRecord := by
  intro s hb
  have hclear : exec .clearMatch s = .next ((clearMatches s).setMgp (Mgp.idle .ok)) :=
    whenPowered_actionFrame hb (by simp)
  have hpurge : exec .purgeOrphans s = .next ((purge s).setMgp (Mgp.idle .ok)) :=
    whenPowered_actionFrame hb (by simp)
  obtain ⟨o, ho⟩ := purge_reaches_table s
  refine ⟨⟨(clearMatches s).mu, hclear, clearMatches_channel s⟩, _, hpurge, fun n hn => ?_, fun n hn => ?_,
    purge_count s, setMgp_of_setOtt ho, purge_table s⟩
  · rw [entry_setMgp, entry_purge, Entry.purged, if_pos hn]
    rfl
  · rw [entry_setMgp, entry_purge, Entry.purged, if_neg hn]

/-! ### The program words (R27, R46, R188, R197) -/

theorem wordAt_channel (n : Fin 8) (k : Fin 12) : wordAt (0x010 + 12 * n.val + k.val) = some (.channel n k) := by
  rw [wordAt, dif_pos (by omega)]
  simp only [Option.some.injEq, WinWord.channel.injEq, Fin.ext_iff]
  omega

theorem wordAt_stage (n : Fin 4) (k : Fin 8) : wordAt (0x070 + 8 * n.val + k.val) = some (.stage n k) := by
  rw [wordAt, dif_neg (by omega), dif_pos (by omega)]
  simp only [Option.some.injEq, WinWord.stage.injEq, Fin.ext_iff]
  omega

/-- R197: the numbers of a channel's programmable words. -/
def programNumbers : List (Fin 12) := [0, 1, 2, 3, 4, 5, 6, 7, 8, 9, 10]

/-- R197: the numbers of a stage's words. -/
def stageNumbers : List (Fin 8) := [0, 1, 2, 3, 4, 5, 6, 7]

/-- R197: the programmable words of a channel. -/
theorem rangeWords_channel (n : Fin 8) : rangeWords (BitVec.ofNat 16 (0x010 + 12 * n.val)) 11
    = (programNumbers.map (.channel n)).map some := by
  have hi : (BitVec.ofNat 16 (0x010 + 12 * n.val)).toNat = 0x010 + 12 * n.val :=
    Nat.mod_eq_of_lt (by omega)
  simp only [rangeWords, hi, programNumbers, List.map_cons, List.map_nil, ← wordAt_channel]
  rfl

/-- R197: the words of a stage. -/
theorem rangeWords_stage (n : Fin 4) : rangeWords (BitVec.ofNat 16 (0x070 + 8 * n.val)) 8
    = (stageNumbers.map (.stage n)).map some := by
  have hi : (BitVec.ofNat 16 (0x070 + 8 * n.val)).toNat = 0x070 + 8 * n.val :=
    Nat.mod_eq_of_lt (by omega)
  simp only [rangeWords, hi, stageNumbers, List.map_cons, List.map_nil, ← wordAt_stage]
  rfl

/-- A channel record with words written one after the other. -/
def Channel.writeAll (c : Channel) (l : List (Fin 12 × Word)) : Channel :=
  l.foldl (fun c p => c.write p.1.val p.2) c

/-- A stage record with words written one after the other. -/
def Stage.writeAll (st : Stage) (l : List (Fin 8 × Word)) : Stage :=
  l.foldl (fun st p => st.write p.1.val p.2) st

/-- R188: the words of one channel are written into its record alone. -/
theorem writeWords_channel (n : Fin 8) (ks : List (Fin 12)) (ws : List Word) (s : State) :
    writeWords s (((ks.map (.channel n)).map some).zip ws)
      = s.setMu { channels := s.mu.channels.set n ((s.mu.channels[n]).writeAll (ks.zip ws)) } := by
  induction ks generalizing ws s with
  | nil => simp [writeWords, Channel.writeAll, State.setMu]
  | cons k ks ih =>
    cases ws with
    | nil => simp [writeWords, Channel.writeAll, State.setMu]
    | cons w ws =>
      simp only [List.map_cons, List.zip_cons_cons, writeWords, ih]
      simp [writeWord, Channel.writeAll, State.setMu]

/-- R188: the words of one stage are written into its record alone. -/
theorem writeWords_stage (n : Fin 4) (ks : List (Fin 8)) (ws : List Word) (s : State) :
    writeWords s (((ks.map (.stage n)).map some).zip ws)
      = s.setTsq { s.tsq with stages := s.tsq.stages.set n ((s.tsq.stages[n]).writeAll (ks.zip ws)) } := by
  induction ks generalizing ws s with
  | nil => simp [writeWords, Stage.writeAll, State.setTsq]
  | cons k ks ih =>
    cases ws with
    | nil => simp [writeWords, Stage.writeAll, State.setTsq]
    | cons w ws =>
      simp only [List.map_cons, List.zip_cons_cons, writeWords, ih]
      simp [writeWord, Stage.writeAll, State.setTsq]

/-- R197: both words of a window address, the low one written first. -/
theorem setAddrHigh_setAddrLow (a : Addr) (lo hi : Word) :
    setAddrHigh (setAddrLow a lo) hi = hi.extractLsb' 0 8 ++ lo :=
  congrArg (hi.extractLsb' 0 8 ++ ·) BitVec.extractLsb'_append_eq_right

/-- R27, R197: the eleven programmable words make the whole program; match flag and hit count stay. -/
theorem Channel.writeAll_program (c : Channel) (w0 w1 w2 w3 w4 w5 w6 w7 w8 w9 w10 : Word) :
    c.writeAll (programNumbers.zip [w0, w1, w2, w3, w4, w5, w6, w7, w8, w9, w10])
      = { enable := w0.getLsbD 0, side := if w0.getLsbD 1 then .response else .request,
          kindFilter := w0.extractLsb' 2 2, outside := w0.getLsbD 4, classFilter := w0.extractLsb' 5 2,
          statusFilter := w0.extractLsb' 7 2, windowLow := w2.extractLsb' 0 8 ++ w1,
          windowHigh := w4.extractLsb' 0 8 ++ w3, initValue := w5.extractLsb' 0 5, initMask := w5.extractLsb' 8 5,
          ctxValue := w6.extractLsb' 0 8, ctxMask := w6.extractLsb' 8 8, lengthMin := w7.extractLsb' 0 5,
          lengthMax := w7.extractLsb' 8 5, dataValue := w8, dataMask := w9, dataFilter := w10.getLsbD 0,
          laneSelect := w10.extractLsb' 1 3, windowBound := w10.getLsbD 4, matchFlag := c.matchFlag,
          hitCount := c.hitCount } := by
  rw [← setAddrHigh_setAddrLow c.windowLow, ← setAddrHigh_setAddrLow c.windowHigh]
  rfl

/-- R188, R190: with TSQ not ARMED a frame that covers read-write words writes them as given. -/
theorem writeFrame_readWrite {index : Half} {count : Byte} {xs : List WinWord} {ws : List Word} {s : State}
    (hb : BetweenFrames s) (ha : s.tsq.state ≠ .armed) (hv : countValid count = true)
    (hx : rangeWords index count = xs.map some) (hr : xs.any readOnly = false) (hw : ws.length = count.toNat) :
    writeFrame index count ws s = (writeWords s ((xs.map some).zip ws)).setMgp (Mgp.idle .ok) := by
  rw [writeFrame_ok hb (by simp [payloadComplete, hw]) (by simp [rangeInWindow, hv, hx]) (.inr ha)
    (by rw [rangeHas, hx, List.any_map]; exact hr), hx, List.take_of_length_le (Nat.le_of_eq hw)]

/-- R27, R188: with TSQ not ARMED a frame of a channel's programmable words writes them. -/
theorem exec_channelRecordWrite {n : Fin 8} {ws : List Word} {s : State} (hb : BetweenFrames s)
    (ha : s.tsq.state ≠ .armed) (hw : ws.length = 11) :
    exec (.channelRecordWrite (BitVec.ofNat 16 (0x010 + 12 * n.val)) 11 ws) s =
      .next { s with
        mu := { channels := s.mu.channels.set n ((s.mu.channels[n]).writeAll (programNumbers.zip ws)) }
        mgp := Mgp.idle .ok } := by
  refine (whenPowered_up (powered_of_between hb)).trans (congrArg _ ?_)
  rw [writeFrame_readWrite hb ha rfl (rangeWords_channel n) rfl hw, writeWords_channel]
  rfl

/-- R46, R188: with TSQ not ARMED a frame of a stage's words writes them. -/
theorem exec_stageRecordWrite {n : Fin 4} {ws : List Word} {s : State} (hb : BetweenFrames s)
    (ha : s.tsq.state ≠ .armed) (hw : ws.length = 8) :
    exec (.stageRecordWrite (BitVec.ofNat 16 (0x070 + 8 * n.val)) 8 ws) s =
      .next { s with
        tsq := { s.tsq with
          stages := s.tsq.stages.set n ((s.tsq.stages[n]).writeAll (stageNumbers.zip ws)) }
        mgp := Mgp.idle .ok } := by
  refine (whenPowered_up (powered_of_between hb)).trans (congrArg _ ?_)
  rw [writeFrame_readWrite hb ha rfl (rangeWords_stage n) rfl hw, writeWords_stage]
  rfl

/-- Settles O42: each frame writes one record, word by word, and the words of a record cover its program. -/
theorem theProgramIsWrittenAsGiven : Obligations.TheProgramIsWrittenAsGiven := by
  intro n m w0 w1 w2 w3 w4 w5 w6 w7 w8 w9 w10 c st s hb ha hc hst
  refine ⟨(exec_channelRecordWrite hb ha rfl).trans ?_, (exec_stageRecordWrite hb ha rfl).trans ?_⟩
  · rw [Channel.writeAll_program, hc]
  · rw [hst]
    rfl

end Sys2Proof.Machine
/-! PROOFS. The counters of the sequencer, the prescale count and the ages of the table (R47, R63, R154, R156): every step
keeps them within their limits. -/
namespace Sys2Proof.Machine

/-! ### The timebase is left alone by every command but its own (R153) -/

@[simp] theorem takeRequest_tbs (r : Request) (s : State) : (takeRequest r s).tbs = s.tbs := by
  unfold takeRequest; (repeat' split) <;> simp

@[simp] theorem takeDownstream_tbs (s : State) : (takeDownstream s).tbs = s.tbs := by
  unfold takeDownstream; (repeat' split) <;> simp

@[simp] theorem takeMatched_tbs (n : Fin 64) (r : Response) (s : State) : (takeMatched n r s).tbs = s.tbs := by
  unfold takeMatched; dsimp only; split <;> simp

@[simp] theorem takeResponse_tbs (r : Response) (s : State) : (takeResponse r s).tbs = s.tbs := by
  unfold takeResponse; (repeat' split) <;> simp

@[simp] theorem beginUpstreamOffer_tbs (s : State) : (beginUpstreamOffer s).tbs = s.tbs := by
  unfold beginUpstreamOffer; split <;> rfl

@[simp] theorem takeUpstream_tbs (s : State) : (takeUpstream s).tbs = s.tbs := by
  unfold takeUpstream; split <;> simp

@[simp] theorem takeRqpReport_tbs (s : State) : (takeRqpReport s).tbs = s.tbs := by
  unfold takeRqpReport; dsimp only; split <;> simp

@[simp] theorem takeRspReport_tbs (s : State) : (takeRspReport s).tbs = s.tbs := by simp [takeRspReport]

@[simp] theorem takeReport_tbs (s : State) : (takeReport s).tbs = s.tbs := by
  unfold takeReport; split <;> simp

@[simp] theorem takeXt_tbs (s : State) : (takeXt s).tbs = s.tbs := by unfold takeXt; split <;> simp

@[simp] theorem takeAn_tbs (s : State) : (takeAn s).tbs = s.tbs := by unfold takeAn; split <;> simp

@[simp] theorem takeDwell_tbs (s : State) : (takeDwell s).tbs = s.tbs := by
  unfold takeDwell; dsimp only; (repeat' split) <;> simp

@[simp] theorem takeArmCommand_tbs (s : State) : (takeArmCommand s).tbs = s.tbs := by
  unfold takeArmCommand; dsimp only; split <;> simp

@[simp] theorem takeDisarmCommand_tbs (s : State) : (takeDisarmCommand s).tbs = s.tbs := by
  unfold takeDisarmCommand; dsimp only; (repeat' split) <;> simp

@[simp] theorem latchArm_tbs (s : State) : (latchArm s).2.tbs = s.tbs := by unfold latchArm; split <;> rfl

@[simp] theorem latchDisarm_tbs (s : State) : (latchDisarm s).2.tbs = s.tbs := by unfold latchDisarm; split <;> rfl

@[simp] theorem linkReset_tbs (s : State) : (linkReset s).tbs = s.tbs := by simp [linkReset]

@[simp] theorem clearWatch_tbs (s : State) : (clearWatch s).tbs = s.tbs := by simp [clearWatch]

/-- R157: among the words only the divisor reaches the timebase, and it sets the prescale count to 0. -/
theorem writeWord_tbs (x : WinWord) (w : Word) (s : State) :
    (writeWord s x w).tbs = s.tbs
      ∨ (writeWord s x w).tbs = { s.tbs with divisor := w.extractLsb' 0 16, prescale := 0 } := by
  cases x with
  | divisor => exact .inr rfl
  | storeMode => exact .inl (by simp [writeWord])
  | _ => exact .inl rfl

theorem tickEvent_tbs (s : State) :
    (tickEvent s).tbs = { s.tbs with prescale := 0, timestamp := s.tbs.timestamp + 1 } := by
  simp [tickEvent_eq, ticked]

/-! ### The prescale count (R154) -/

theorem effectiveDivisor_pos (d : Half) : 0 < effectiveDivisor d := by unfold effectiveDivisor; split <;> omega

theorem prescale_same {s t : State} (h : t.tbs = s.tbs) (hs : PrescaleBelowDivisor s) : PrescaleBelowDivisor t := by
  unfold PrescaleBelowDivisor; rw [h]; exact hs

/-- R154, R157: a count that starts anew is below every divisor. -/
theorem prescale_zero {s : State} (h : s.tbs.prescale = 0) : PrescaleBelowDivisor s := by
  unfold PrescaleBelowDivisor; rw [h]; exact effectiveDivisor_pos _

/-- R154: an edge that does not bring the count to the divisor leaves it below. -/
theorem prescale_counts {s : State} (h : PrescaleBelowDivisor s)
    (hne : s.tbs.prescale.toNat + 1 ≠ effectiveDivisor s.tbs.divisor) :
    PrescaleBelowDivisor (s.setTbs { s.tbs with prescale := s.tbs.prescale + 1 }) := by
  have hle := effectiveDivisor_le s.tbs.divisor
  unfold PrescaleBelowDivisor at h ⊢
  have hn : (s.tbs.prescale + 1).toNat = s.tbs.prescale.toNat + 1 := by
    rw [BitVec.toNat_add]
    exact Nat.mod_eq_of_lt (by show _ + 1 < 65536; omega)
  show (s.tbs.prescale + 1).toNat < effectiveDivisor s.tbs.divisor
  rw [hn]
  omega

/-- R154: the operations keep the prescale count below the divisor. -/
theorem operations_keep_prescale : KeptByOperations PrescaleBelowDivisor where
  pending _ _ := prescale_same rfl
  mgp _ _ := prescale_same rfl
  cs _ _ := prescale_same rfl
  lrst _ _ h _ := prescale_same rfl h
  porst _ := prescale_same rfl
  takeRequest _ _ _ := prescale_same (by simp)
  passHoldPoint _ _ := prescale_same (by simp)
  takeDownstream _ _ := prescale_same (by simp)
  takeResponse _ _ _ := prescale_same (by simp)
  beginUpstreamOffer _ _ := prescale_same (by simp)
  takeUpstream _ _ := prescale_same (by simp)
  takeReport _ := prescale_same (by simp)
  takeXt _ := prescale_same (by simp)
  takeAn _ := prescale_same (by simp)
  takeDwell _ := prescale_same (by simp)
  takeArm _ := prescale_same (by simp)
  takeDisarm _ := prescale_same (by simp)
  latchXt _ := prescale_same rfl
  tick s _ := prescale_zero (by rw [tickEvent_tbs])
  prescale _ := prescale_counts
  beginRecord _ := prescale_same (by simp)
  freeSlot _ := prescale_same (by simp)
  passByte _ _ h _ := prescale_same rfl h
  linkReset _ := prescale_same (by simp)
  powerOn _ _ := prescale_zero rfl
  pin _ _ := prescale_same rfl
  removeRead _ _ := prescale_same (by simp)
  writeWord s x w h _ := by
    obtain hw | hw := writeWord_tbs x w s
    · exact prescale_same hw h
    · exact prescale_zero (by rw [hw])
  latchArm _ := prescale_same (by simp)
  latchDisarm _ := prescale_same (by simp)
  release _ := prescale_same (by simp)
  purge _ := prescale_same (by simp)
  setCapturing _ _ := prescale_same rfl
  placeMark _ _ := prescale_same (by simp [placeMark])
  acknowledge _ _ := prescale_same rfl
  clearSummary _ := prescale_same rfl
  clearMatches _ := prescale_same rfl
  clearWatch _ := prescale_same (by simp)

/-! ### The ages of LIVE entries (R12, R156) -/

/-- R156: the age of one slot at a timestamp: `AgesFollowTimestamp` says it of every slot. -/
def Entry.AgeFollows (now : Word) (e : Entry) : Prop :=
  e.state = .live → e.age ≠ BitVec.allOnes 16 → e.age.setWidth 32 = now - e.stamp

theorem agesFollowTimestamp_iff {s : State} :
    AgesFollowTimestamp s ↔ ∀ n, (entry s n).AgeFollows s.tbs.timestamp := .rfl

/-- R5: an allocated entry is of age 0 at its issue stamp. -/
theorem Entry.AgeFollows.issued {e : Entry} {now : Word} (ha : e.age = 0) (hs : e.stamp = now) : e.AgeFollows now := by
  intro _ _
  rw [ha, hs, BitVec.sub_self]
  rfl

/-- R12, R156: a tick that does not saturate the age adds 1 to it, as to the timestamp. -/
theorem Entry.AgeFollows.aged {e : Entry} {now : Word} (h : e.AgeFollows now) : e.aged.AgeFollows (now + 1) := by
  intro hl hn
  rw [Entry.aged_state] at hl
  rw [Entry.aged_live hl] at hn ⊢
  dsimp only at hn ⊢
  have hne : e.age ≠ BitVec.allOnes 16 := fun hx => hn (by rw [satInc, if_pos hx]; exact hx)
  have hage : (e.age + 1).setWidth 32 = e.age.setWidth 32 + 1 := by
    have hlt : e.age.toNat ≠ 65535 := fun hx => hne (BitVec.eq_of_toNat_eq hx)
    bv_omega
  rw [satInc, if_neg hne, hage, h hl hne]
  bv_omega

/-- From `s` to `t` the timestamp stays, and a slot that is LIVE in `t` was LIVE in `s` with the age and stamp it has. -/
structure AgesKept (s t : State) : Prop where
  now : t.tbs.timestamp = s.tbs.timestamp
  live : ∀ n, (entry t n).state = .live → (entry s n).state = .live
  age : ∀ n, (entry t n).state = .live → (entry t n).age = (entry s n).age
  stamp : ∀ n, (entry t n).state = .live → (entry t n).stamp = (entry s n).stamp

theorem AgesKept.ages {s t : State} (k : AgesKept s t) (h : AgesFollowTimestamp s) : AgesFollowTimestamp t := by
  intro n hl
  rw [k.now, k.age n hl, k.stamp n hl]
  exact h n (k.live n hl)

theorem AgesKept.trans {s t u : State} (h : AgesKept s t) (k : AgesKept t u) : AgesKept s u where
  now := k.now.trans h.now
  live n hl := h.live n (k.live n hl)
  age n hl := (k.age n hl).trans (h.age n (k.live n hl))
  stamp n hl := (k.stamp n hl).trans (h.stamp n (k.live n hl))

/-- Every slot is as it was. -/
theorem AgesKept.same {s t : State} (ht : t.tbs = s.tbs) (h : ∀ n, entry t n = entry s n) : AgesKept s t where
  now := by rw [ht]
  live n := by rw [h]; exact id
  age n _ := by rw [h]
  stamp n _ := by rw [h]

/-- Every slot is as it was but for its reservation. -/
theorem AgesKept.reserved {s t : State} (ht : t.tbs = s.tbs)
    (h : ∀ n, ∃ k ≤ (entry s n).reservation, entry t n = { entry s n with reservation := k }) : AgesKept s t where
  now := by rw [ht]
  live n := by obtain ⟨k, _, he⟩ := h n; rw [he]; exact id
  age n _ := by obtain ⟨k, _, he⟩ := h n; rw [he]
  stamp n _ := by obtain ⟨k, _, he⟩ := h n; rw [he]

/-- Every slot is changed by a function that makes none LIVE and keeps age and stamp. -/
theorem AgesKept.mapped {s t : State} {f : Entry → Entry} (ht : t.tbs = s.tbs) (h : ∀ n, entry t n = f (entry s n))
    (hl : ∀ e, (f e).state = .live → e.state = .live) (hf : ∀ e, (f e).age = e.age ∧ (f e).stamp = e.stamp) :
    AgesKept s t where
  now := by rw [ht]
  live n := by rw [h]; exact hl _
  age n _ := by rw [h]; exact (hf _).1
  stamp n _ := by rw [h]; exact (hf _).2

/-- One slot is changed, and is not made LIVE. -/
theorem AgesKept.slot {s t : State} {n : Fin 64} {e : Entry} (ht : t.tbs = s.tbs)
    (h : ∀ m, entry t m = if m = n then e else entry s m) (hl : e.state = .live → (entry s n).state = .live)
    (ha : e.age = (entry s n).age) (hs : e.stamp = (entry s n).stamp) : AgesKept s t where
  now := by rw [ht]
  live m := by
    rw [h]; split
    · next hm => rw [hm]; exact hl
    · exact id
  age m _ := by
    rw [h]; split
    · next hm => rw [hm]; exact ha
    · rfl
  stamp m _ := by
    rw [h]; split
    · next hm => rw [hm]; exact hs
    · rfl

theorem Entry.abandoned_kept (e : Entry) :
    e.abandoned.state = .orphaned ∧ e.abandoned.age = e.age ∧ e.abandoned.stamp = e.stamp := by
  unfold Entry.abandoned; split <;> exact ⟨rfl, rfl, rfl⟩

theorem abandon_ages (n : Fin 64) (s : State) : AgesKept s (abandon n s) := by
  obtain ⟨ho, ha, hs⟩ := (entry s n).abandoned_kept
  exact .slot (by simp) (abandon_entry n s) (fun hl => by rw [ho] at hl; cases hl) ha hs

theorem makeClaims_ages (s : State) : AgesKept s (makeClaims s) :=
  makeClaims_kept (P := AgesKept s) (fun t n h _ _ _ => h.trans (abandon_ages n t)) (.same rfl fun _ => rfl)

theorem claimAtReport_ages (s : State) : AgesKept s (claimAtReport s) :=
  claimAtReport_kept (P := AgesKept s) (fun t n h _ _ _ => h.trans (abandon_ages n t)) (.same rfl fun _ => rfl)
    (.same rfl fun _ => rfl)

/-- R15: an expiry under REPORT marks its slot alone. -/
theorem expireReport_ages (n : Fin 64) (s : State) : AgesKept s (expireReport n s) := by
  have he := expireReport_entry n s
  by_cases hd : due s n = true
  · simp only [hd, and_true] at he
    exact .slot (by simp) he id rfl rfl
  · exact .same (by simp) fun m => by rw [he, if_neg fun hx => hd hx.2]

/-- R12: at a tick OTT ages every LIVE entry; what expires stays LIVE with its age or is ORPHANED. -/
theorem ottTick_ages (s : State) : AgesKept (mapEntries Entry.aged s) (ottTick s) := by
  unfold ottTick
  dsimp only
  split
  · exact foldl_kept (fun t n => expireReport n t) (AgesKept (mapEntries Entry.aged s))
      (fun t n h => h.trans (expireReport_ages n t)) _ _ (.same rfl fun _ => rfl)
  · exact makeClaims_ages _

theorem tickEvent_ages {s : State} (h : AgesFollowTimestamp s) : AgesFollowTimestamp (tickEvent s) := by
  have haged : AgesFollowTimestamp (mapEntries Entry.aged (ticked s)) := agesFollowTimestamp_iff.2 fun n => by
    have hnow : (mapEntries Entry.aged (ticked s)).tbs.timestamp = s.tbs.timestamp + 1 := by simp [ticked]
    rw [entry_mapEntries, hnow]
    exact (agesFollowTimestamp_iff.1 h n).aged
  have hlater : AgesKept (ottTick (ticked s)) (tickEvent s) :=
    .same (by simp [tickEvent_eq]) (fun n => entry_tickEvent s n)
  exact ((ottTick_ages (ticked s)).trans hlater).ages haged

/-- R5: the allocated entry begins at age 0. -/
theorem takenDown_ages {t : RqpTxn} {n : Fin 64} {s : State} (h : AgesFollowTimestamp s) :
    AgesFollowTimestamp (takenDown t n s) := agesFollowTimestamp_iff.2 fun m => by
  have hnow : (takenDown t n s).tbs = s.tbs := by simp [takenDown]
  obtain ⟨hother, hself⟩ := entry_takenDown t n s m
  rw [hnow]
  by_cases hm : m = n
  · obtain ⟨b, k, he⟩ := hself hm
    rw [he]
    exact .issued rfl rfl
  · rw [hother hm]
    exact h m

theorem takeDownstream_ages {s : State} (h : AgesFollowTimestamp s) : AgesFollowTimestamp (takeDownstream s) := by
  by_cases ho : ∃ t n, s.rqp.inProcess = some t ∧ t.phase = .offered n
  · obtain ⟨t, n, ht, hp⟩ := ho
    rw [takeDownstream_eq ht hp]
    exact (makeClaims_ages _).ages (takenDown_ages h)
  · rwa [takeDownstream_none (fun t n ht hp => ho ⟨t, n, ht, hp⟩)]

/-- R10: a late response frees its slot; a matched one takes from its slot's reservation at most. -/
theorem takeResponse_ages (r : Response) (s : State) : AgesKept s (takeResponse r s) := by
  unfold takeResponse
  split
  · split
    · exact .reserved (by simp) (takeMatched_entry _ r s)
    · refine .slot (n := tagSlot r.tag) (e := (entry s (tagSlot r.tag)).freed) (by simp) (fun m => ?_) nofun rfl rfl
      simp [takeLate, entry_setEntry]
    · exact .same (by simp) (by simp)
  · exact .same rfl fun _ => rfl

theorem takeUpstream_ages (s : State) : AgesKept s (takeUpstream s) := by
  unfold takeUpstream
  split
  · unfold retire
    split
    · rename_i t _
      refine .slot (n := t.slot) (e := (entry s t.slot).freed) (by simp) (fun m => ?_) nofun rfl rfl
      simp [entry_setEntry]
    · exact .same rfl fun _ => rfl
  · exact AgesKept.trans (t := s.setRmg { queue := s.rmg.queue.tail, pointer := .rsp, offer := none })
      (.same rfl fun _ => rfl) (claimAtReport_ages _)
  · exact .same rfl fun _ => rfl

theorem takeReport_ages (s : State) : AgesKept s (takeReport s) := by
  unfold takeReport
  split
  · refine .same (by simp) fun n => ?_
    unfold takeRqpReport
    dsimp only
    split <;> simp
  · refine .reserved (by simp) fun n => ?_
    simpa [takeRspReport] using answerResponse_entry _ (countInput _ (takeInput .rspReport s)).2 n
  · exact .same rfl fun _ => rfl

theorem writeWord_ages (x : WinWord) (w : Word) (s : State) : AgesKept s (writeWord s x w) := by
  cases x with
  | storeMode => exact .mapped (by simp [writeWord]) (writeMode_entry _ s) (fun _ => id) (fun _ => ⟨rfl, rfl⟩)
  | divisor => exact ⟨rfl, fun _ => id, fun _ _ => rfl, fun _ _ => rfl⟩
  | _ => exact .same rfl fun _ => rfl

theorem Entry.purged_kept (e : Entry) : (e.purged.state = .live → e.state = .live)
    ∧ e.purged.age = e.age ∧ e.purged.stamp = e.stamp := by
  unfold Entry.purged
  split
  · exact ⟨nofun, rfl, rfl⟩
  · exact ⟨id, rfl, rfl⟩

/-- R156: the operations keep the ages of LIVE entries with the timestamp. -/
theorem operations_keep_ages : KeptByOperations AgesFollowTimestamp where
  pending _ _ := (AgesKept.same rfl fun _ => rfl).ages
  mgp _ _ := (AgesKept.same rfl fun _ => rfl).ages
  cs _ _ := (AgesKept.same rfl fun _ => rfl).ages
  lrst _ _ h _ := (AgesKept.same rfl fun _ => rfl).ages h
  porst _ := (AgesKept.same rfl fun _ => rfl).ages
  takeRequest r s _ := (AgesKept.same (by simp) (entry_congr (takeRequest_ott r s))).ages
  passHoldPoint _ _ := (AgesKept.same (by simp) (by simp)).ages
  takeDownstream _ _ := takeDownstream_ages
  takeResponse r s _ := (takeResponse_ages r s).ages
  beginUpstreamOffer s _ := (AgesKept.same (by simp) fun _ => by unfold beginUpstreamOffer; split <;> rfl).ages
  takeUpstream s _ := (takeUpstream_ages s).ages
  takeReport s := (takeReport_ages s).ages
  takeXt _ := (AgesKept.same (by simp) fun _ => by unfold takeXt; split <;> simp).ages
  takeAn _ := (AgesKept.same (by simp) fun _ => by unfold takeAn; split <;> simp).ages
  takeDwell _ := (AgesKept.same (by simp) fun _ => by unfold takeDwell; dsimp only; (repeat' split) <;> simp).ages
  takeArm _ := (AgesKept.same (by simp) fun _ => by unfold takeArmCommand; dsimp only; split <;> simp).ages
  takeDisarm _ :=
    (AgesKept.same (by simp) fun _ => by unfold takeDisarmCommand; dsimp only; (repeat' split) <;> simp).ages
  latchXt _ := (AgesKept.same rfl fun _ => rfl).ages
  tick _ := tickEvent_ages
  prescale _ h _ := h
  beginRecord _ := (AgesKept.same (by simp) (by simp)).ages
  freeSlot _ := (AgesKept.same (by simp) (by simp)).ages
  passByte _ _ h _ := (AgesKept.same rfl fun _ => rfl).ages h
  linkReset s := (AgesKept.mapped (by simp) (linkReset_entry s) nofun (fun _ => ⟨rfl, rfl⟩)).ages
  powerOn s _ := agesFollowTimestamp_iff.2 fun n => by rw [powerOn_entry]; exact .issued rfl rfl
  pin _ _ := (AgesKept.same rfl fun _ => rfl).ages
  removeRead _ _ := (AgesKept.same (by simp) (by simp)).ages
  writeWord s x w h _ := (writeWord_ages x w s).ages h
  latchArm _ := (AgesKept.same (by simp) fun _ => by unfold latchArm; split <;> rfl).ages
  latchDisarm _ := (AgesKept.same (by simp) fun _ => by unfold latchDisarm; split <;> rfl).ages
  release _ := (AgesKept.same (by simp) (by simp)).ages
  purge s := (AgesKept.mapped (by simp) (entry_purge s) (fun e => e.purged_kept.1) (fun e => e.purged_kept.2)).ages
  setCapturing _ _ := (AgesKept.same rfl fun _ => rfl).ages
  placeMark _ _ := (AgesKept.same (by simp [placeMark]) (by simp [placeMark])).ages
  acknowledge _ _ := (AgesKept.same rfl fun _ => rfl).ages
  clearSummary _ := (AgesKept.same rfl fun _ => rfl).ages
  clearMatches _ := (AgesKept.same rfl fun _ => rfl).ages
  clearWatch s := (AgesKept.mapped (by simp) (clearWatch_entry s) (fun _ => id) (fun _ => ⟨rfl, rfl⟩)).ages

end Sys2Proof.Machine
namespace Sys2Proof.Machine

/-! ### The sequencer within its program (R47, R63) -/

/-- R47, R63: `SequencerWithinProgram` is about TSQ alone. -/
def Tsq.WithinProgram (q : Tsq) : Prop :=
  (q.state = .armed →
    q.counter0.toNat < effectiveCount q.stages[q.stage].exit0.count
    ∧ q.counter1.toNat < effectiveCount q.stages[q.stage].exit1.count
    ∧ q.dwellAge.toNat ≤ q.stages[q.stage].dwellLimit.toNat
    ∧ (q.dwellExpiry = true ↔ q.stages[q.stage].dwellLimit ≠ 0 ∧ q.dwellAge = q.stages[q.stage].dwellLimit))
  ∧ (q.state ≠ .armed → q.counter0 = 0 ∧ q.counter1 = 0 ∧ q.dwellAge = 0 ∧ q.dwellExpiry = false)

theorem sequencerWithinProgram_iff {s : State} : SequencerWithinProgram s ↔ s.tsq.WithinProgram := .rfl

/-- What of TSQ is neither a latch of another input than the dwell expiry nor the priority pointer. -/
def Tsq.SameProgress (q r : Tsq) : Prop :=
  r.stages = q.stages ∧ r.state = q.state ∧ r.stage = q.stage ∧ r.counter0 = q.counter0 ∧ r.counter1 = q.counter1
    ∧ r.dwellAge = q.dwellAge ∧ r.dwellExpiry = q.dwellExpiry

theorem Tsq.SameProgress.refl (q : Tsq) : q.SameProgress q := ⟨rfl, rfl, rfl, rfl, rfl, rfl, rfl⟩

theorem Tsq.SameProgress.within {q r : Tsq} (h : q.SameProgress r) (hq : q.WithinProgram) : r.WithinProgram := by
  obtain ⟨h1, h2, h3, h4, h5, h6, h7⟩ := h
  simpa only [Tsq.WithinProgram, Fin.getElem_fin, h1, h2, h3, h4, h5, h6, h7] using hq

theorem SameButAn.progress {q r : Tsq} (h : SameButAn r q) : q.SameProgress r := by
  obtain ⟨h1, h2, h3, h4, h5, h6, _, _, _, h7, _⟩ := h.fields
  exact ⟨h1, h2, h3, h4, h5, h6, h7⟩

theorem effectiveCount_pos (c : BitVec 12) : 0 < effectiveCount c := by unfold effectiveCount; split <;> omega

/-- R49, R50, R57, R70: counters and dwell age at 0 with no expiry pending are within every program. -/
theorem Tsq.WithinProgram.restarted {q : Tsq} (h0 : q.counter0 = 0) (h1 : q.counter1 = 0) (ha : q.dwellAge = 0)
    (he : q.dwellExpiry = false) : q.WithinProgram := by
  refine ⟨fun _ => ⟨?_, ?_, ?_, ?_⟩, fun _ => ⟨h0, h1, ha, he⟩⟩
  · rw [h0]; exact effectiveCount_pos _
  · rw [h1]; exact effectiveCount_pos _
  · rw [ha]; exact Nat.zero_le _
  · rw [he, ha]
    exact ⟨nofun, fun ⟨hl, hz⟩ => absurd hz.symm hl⟩

/-- R63: the tick that brings the dwell age to its limit sets the expiry latch, and with it set the age stands. -/
theorem Tsq.WithinProgram.ticked {q : Tsq} (h : q.WithinProgram) : q.ticked.WithinProgram := by
  unfold Tsq.ticked
  split
  · next hc =>
    obtain ⟨harmed, hlimit, hexp⟩ := hc
    obtain ⟨h0, h1, hle, hiff⟩ := h.1 harmed
    have hne : q.dwellAge ≠ q.stages[q.stage].dwellLimit := fun hx => by
      have := hiff.2 ⟨hlimit, hx⟩
      rw [hexp] at this
      cases this
    have hlt : (q.dwellAge + 1).toNat ≤ q.stages[q.stage].dwellLimit.toNat := by
      have hne' : q.dwellAge.toNat ≠ q.stages[q.stage].dwellLimit.toNat := fun hx => hne (BitVec.eq_of_toNat_eq hx)
      bv_omega
    exact ⟨fun _ => ⟨h0, h1, hlt, by simpa using fun _ => hlimit⟩, fun hx => absurd harmed hx⟩
  · exact h

/-- R56, R60: counters below their exits' counts. -/
theorem Tsq.WithinProgram.counted {q : Tsq} (h : q.WithinProgram) (ha : q.state = .armed) {c0 c1 : BitVec 12}
    (h0 : reached q.stages[q.stage].exit0 c0 = false) (h1 : reached q.stages[q.stage].exit1 c1 = false) :
    { q with counter0 := c0, counter1 := c1 }.WithinProgram := by
  obtain ⟨_, _, hdwell⟩ := h.1 ha
  simp only [reached, decide_eq_false_iff_not, Nat.not_le] at h0 h1
  exact ⟨fun _ => ⟨h0, h1, hdwell⟩, fun hx => absurd ha hx⟩

theorem sequencer_same {s t : State} (h : t.tsq = s.tsq) (hs : SequencerWithinProgram s) :
    SequencerWithinProgram t := by
  rw [sequencerWithinProgram_iff, h]; exact hs

/-- TSQ is as it was but for latches and the priority pointer. -/
theorem sequencer_progress {s t : State} (h : s.tsq.SameProgress t.tsq) (hs : SequencerWithinProgram s) :
    SequencerWithinProgram t := sequencerWithinProgram_iff.2 (h.within hs)

/-- R101: an event record leaves the sequencer alone. -/
theorem offerEvent_within (r : Record) {s : State} (h : SequencerWithinProgram s) :
    SequencerWithinProgram (offerEvent r s) := sequencer_same (by simp) h

/-- R57, R62: a transition starts the target stage anew. -/
theorem transition_within (c : StageCause) (target : BitVec 3) (a : BitVec 7) (s : State) :
    SequencerWithinProgram (transition c target a s) := by
  rw [sequencerWithinProgram_iff, transition_tsq]
  exact .restarted rfl rfl rfl rfl

theorem countInput_within (sources : BitVec 10) {s : State} (h : SequencerWithinProgram s) :
    SequencerWithinProgram (countInput sources s).2 := by
  unfold countInput
  split
  · next ha =>
    dsimp only
    split
    · exact transition_within ..
    · next h0 =>
      split
      · exact transition_within ..
      · next h1 => exact Tsq.WithinProgram.counted h ha (eq_false_of_ne_true h0) (eq_false_of_ne_true h1)
  · exact h
  · exact h

/-- R54: the take of an input other than the dwell expiry leaves its progress as it was. -/
theorem takeInput_progress {i : Input} (hi : i ≠ .dwell) (s : State) : s.tsq.SameProgress (takeInput i s).tsq := by
  cases i with
  | dwell => exact absurd rfl hi
  | _ => exact .refl _

theorem countTaken_within {i : Input} (hi : i ≠ .dwell) (sources : BitVec 10) {s : State}
    (h : SequencerWithinProgram s) : SequencerWithinProgram (countInput sources (takeInput i s)).2 :=
  countInput_within sources (sequencer_progress (takeInput_progress hi s) h)

theorem takeReport_within {s : State} (h : SequencerWithinProgram s) : SequencerWithinProgram (takeReport s) := by
  unfold takeReport
  split
  · have hc := countTaken_within (i := .rqpReport) nofun (reportSources (s.tsq.rqpReport.getD 0)) h
    unfold takeRqpReport
    dsimp only
    split
    · exact sequencer_same (by simp) hc
    · exact sequencer_same (by simp) hc
  · exact sequencer_same (by simp [takeRspReport])
      (countTaken_within (i := .rspReport) nofun (reportSources (s.tsq.rspReport.getD 0)) h)
  · exact h

theorem takeXt_within {s : State} (h : SequencerWithinProgram s) : SequencerWithinProgram (takeXt s) := by
  unfold takeXt
  split
  · exact countTaken_within (i := .xt) nofun _ h
  · exact h

theorem takeAn_within {s : State} (h : SequencerWithinProgram s) : SequencerWithinProgram (takeAn s) := by
  unfold takeAn
  split
  · exact countTaken_within (i := .an) nofun _ h
  · exact h

/-- R64: in ARMED a dwell expiry takes a transition; outside ARMED none is pending. -/
theorem takeDwell_within {s : State} (h : SequencerWithinProgram s) : SequencerWithinProgram (takeDwell s) := by
  unfold takeDwell
  dsimp only
  split
  · split
    · exact transition_within ..
    · next ha =>
      obtain ⟨h0, h1, hage, _⟩ := h.2 ha
      exact Tsq.WithinProgram.restarted h0 h1 hage rfl
  · exact h

theorem takeArmCommand_within {s : State} (h : SequencerWithinProgram s) :
    SequencerWithinProgram (takeArmCommand s) := by
  unfold takeArmCommand
  dsimp only
  split
  · exact offerEvent_within _ (Tsq.WithinProgram.restarted rfl rfl rfl rfl)
  · exact h

theorem takeDisarmCommand_within {s : State} (h : SequencerWithinProgram s) :
    SequencerWithinProgram (takeDisarmCommand s) := by
  unfold takeDisarmCommand
  dsimp only
  split
  · split
    · exact Tsq.WithinProgram.restarted rfl rfl rfl rfl
    · exact offerEvent_within _ (Tsq.WithinProgram.restarted rfl rfl rfl rfl)
    · exact offerEvent_within _ (Tsq.WithinProgram.restarted rfl rfl rfl rfl)
  · exact h

theorem tickEvent_tsq (s : State) : (tickEvent s).tsq = (ottTick (ticked s)).tsq.ticked := by
  simp [tickEvent_eq, tsqTick_tsq]

theorem tickEvent_within {s : State} (h : SequencerWithinProgram s) : SequencerWithinProgram (tickEvent s) := by
  obtain ⟨_, _, _, _, hott⟩ := ottTick_others (ticked s)
  rw [sequencerWithinProgram_iff, tickEvent_tsq]
  exact (hott.progress.within h).ticked

/-- R54: an anomaly sets the AN latch at most. -/
theorem takeAnomaly_progress (a : Anomaly) (s : State) : s.tsq.SameProgress (takeAnomaly a s).tsq :=
  (takeAnomaly_tsq_an a s).progress

theorem takeRequest_within (r : Request) {s : State} (h : SequencerWithinProgram s) :
    SequencerWithinProgram (takeRequest r s) := by
  have hp : ∀ a, SequencerWithinProgram (answerProtocol r a s) := fun a => by
    unfold answerProtocol
    exact sequencer_progress (takeAnomaly_progress ..) (sequencer_same rfl h)
  unfold takeRequest
  split
  · split
    · exact hp _
    · split
      · exact hp _
      · unfold evaluateRequest
        dsimp only
        split
        · exact sequencer_same rfl h
        · exact sequencer_progress (.refl _) h
  · exact h

theorem evaluateResponse_within (n : Fin 64) (st : DownStatus) (d : List BeatData) {s : State}
    (h : SequencerWithinProgram s) : SequencerWithinProgram (evaluateResponse n st d s) := by
  unfold evaluateResponse
  dsimp only
  split
  · exact sequencer_same (by simp) h
  · exact sequencer_progress (.refl _) h

theorem takeResponse_within (r : Response) {s : State} (h : SequencerWithinProgram s) :
    SequencerWithinProgram (takeResponse r s) := by
  have ha : ∀ a t, t.tsq = s.tsq → SequencerWithinProgram (takeAnomaly a t) := fun a t ht =>
    sequencer_progress (takeAnomaly_progress a t) (sequencer_same ht h)
  unfold takeResponse
  split
  · split
    · unfold takeMatched
      dsimp only
      split
      · exact evaluateResponse_within _ _ _ (sequencer_same rfl h)
      · exact evaluateResponse_within _ _ _ (ha _ _ rfl)
    · exact ha _ _ (by simp)
    · exact ha _ _ rfl
  · exact h

theorem takeDownstream_within {s : State} (h : SequencerWithinProgram s) :
    SequencerWithinProgram (takeDownstream s) := by
  by_cases ho : ∃ t n, s.rqp.inProcess = some t ∧ t.phase = .offered n
  · obtain ⟨t, n, ht, hp⟩ := ho
    obtain ⟨_, _, _, _, hclaims⟩ := makeClaims_others (takenDown t n s)
    rw [takeDownstream_eq ht hp]
    exact sequencer_progress hclaims.progress (sequencer_same (by simp [takenDown]) h)
  · rwa [takeDownstream_none (fun t n ht hp => ho ⟨t, n, ht, hp⟩)]

theorem takeUpstream_within {s : State} (h : SequencerWithinProgram s) : SequencerWithinProgram (takeUpstream s) := by
  unfold takeUpstream
  split
  · exact sequencer_same (by simp) h
  · exact sequencer_progress (claimAtReport_tsq_an _).progress (sequencer_same rfl h)
  · exact h

/-- R46, R190: a stage is written only outside ARMED, where the program has no part in the counters. -/
theorem writeWord_within (x : WinWord) (w : Word) {s : State} (h : SequencerWithinProgram s)
    (hl : locked x = true → s.tsq.state ≠ .armed) : SequencerWithinProgram (writeWord s x w) := by
  cases x with
  | storeMode => exact sequencer_same (by simp [writeWord]) h
  | stage n k =>
    obtain ⟨h0, h1, hage, hexp⟩ := h.2 (hl rfl)
    exact Tsq.WithinProgram.restarted h0 h1 hage hexp
  | _ => exact sequencer_same rfl h

/-- R47, R63: the operations keep the sequencer within its program. -/
theorem operations_keep_sequencer : KeptByOperations SequencerWithinProgram where
  pending _ _ := sequencer_same rfl
  mgp _ _ := sequencer_same rfl
  cs _ _ := sequencer_same rfl
  lrst _ _ h _ := sequencer_same rfl h
  porst _ := sequencer_same rfl
  takeRequest r _ _ := takeRequest_within r
  passHoldPoint _ _ := sequencer_same (by simp)
  takeDownstream _ _ := takeDownstream_within
  takeResponse r _ _ := takeResponse_within r
  beginUpstreamOffer _ _ := sequencer_same (by unfold beginUpstreamOffer; split <;> rfl)
  takeUpstream _ _ := takeUpstream_within
  takeReport _ := takeReport_within
  takeXt _ := takeXt_within
  takeAn _ := takeAn_within
  takeDwell _ := takeDwell_within
  takeArm _ := takeArmCommand_within
  takeDisarm _ := takeDisarmCommand_within
  latchXt _ := sequencer_progress (.refl _)
  tick _ := tickEvent_within
  prescale _ h _ := sequencer_same rfl h
  beginRecord _ := sequencer_same (by simp)
  freeSlot _ := sequencer_same (by simp)
  passByte _ _ h _ := sequencer_same rfl h
  linkReset s h := sequencer_progress (s := s) (by simp [linkReset, discardTraffic, Tsq.SameProgress]) h
  powerOn _ _ := Tsq.WithinProgram.restarted rfl rfl rfl rfl
  pin _ _ := sequencer_same rfl
  removeRead _ _ := sequencer_same (by simp)
  writeWord _ x w := writeWord_within x w
  latchArm s h := sequencer_progress (s := s) (by unfold latchArm; split <;> exact .refl _) h
  latchDisarm s h := sequencer_progress (s := s) (by unfold latchDisarm; split <;> exact .refl _) h
  release _ := sequencer_same (by simp)
  purge _ := sequencer_same (by simp)
  setCapturing _ _ := sequencer_same rfl
  placeMark _ _ := offerEvent_within _
  acknowledge _ _ := sequencer_same rfl
  clearSummary _ := sequencer_same rfl
  clearMatches _ := sequencer_same rfl
  clearWatch s _ := by
    rw [sequencerWithinProgram_iff, show (clearWatch s).tsq = clearTsq s.tsq by simp [clearWatch]]
    exact .restarted rfl rfl rfl rfl

/-- Settles O58: each of the three is kept by every operation: the sequencer by its inputs and ticks, the prescale count
by the edges, the ages by ticks, allocations and expiries. -/
theorem everyStepKeepsTheCountersWithinLimits : Obligations.EveryStepKeepsTheCountersWithinLimits :=
  fun _ _ ⟨hseq, hpre, hage⟩ hstep =>
    ⟨operations_keep_sequencer.step hseq hstep, operations_keep_prescale.step hpre hstep,
      operations_keep_ages.step hage hstep⟩

end Sys2Proof.Machine
/-! PROOFS. The takes of the arbiter (R48 to R64, R73, R81, R86, R88, R92, R98, R99, R119, R144, R150): what each input does
when it is next in line, the two commands of the sequencer, and the ticks at which a limit runs out. -/
namespace Sys2Proof.Machine

/-! ### The commands while PORST_N is deasserted (R199) -/

theorem exec_takeReport {s : State} (h : Powered s) : exec .takeReport s = .next (takeReport s) := whenPowered_up h
theorem exec_takeXtInput {s : State} (h : Powered s) : exec .takeXtInput s = .next (takeXt s) := whenPowered_up h
theorem exec_takeAnInput {s : State} (h : Powered s) : exec .takeAnInput s = .next (takeAn s) := whenPowered_up h
theorem exec_dwellExpiry {s : State} (h : Powered s) : exec .dwellExpiry s = .next (takeDwell s) := whenPowered_up h
theorem exec_takeArm {s : State} (h : Powered s) : exec .takeArm s = .next (takeArmCommand s) := whenPowered_up h
theorem exec_takeDisarm {s : State} (h : Powered s) : exec .takeDisarm s = .next (takeDisarmCommand s) := whenPowered_up h

/-! ### The input that is next in line is taken, no other (R54) -/

theorem takeReport_rqp {s : State} (h : NextInLine s .rqpReport) : takeReport s = takeRqpReport s := by
  simp only [takeReport, arbiterNext_iff.2 h]

theorem takeReport_rsp {s : State} (h : NextInLine s .rspReport) : takeReport s = takeRspReport s := by
  simp only [takeReport, arbiterNext_iff.2 h]

theorem takeReport_waits {s : State} (h1 : ¬ NextInLine s .rqpReport) (h2 : ¬ NextInLine s .rspReport) :
    takeReport s = s := by
  unfold takeReport
  split
  · next h => exact absurd (arbiterNext_iff.1 h) h1
  · next h => exact absurd (arbiterNext_iff.1 h) h2
  · rfl

theorem takeXt_next {s : State} (h : NextInLine s .xt) : takeXt s = (countInput xtSources (takeInput .xt s)).2 :=
  if_pos (arbiterNext_iff.2 h)

theorem takeXt_waits {s : State} (h : ¬ NextInLine s .xt) : takeXt s = s := if_neg fun hx => h (arbiterNext_iff.1 hx)

theorem takeAn_next {s : State} (h : NextInLine s .an) : takeAn s = (countInput anSources (takeInput .an s)).2 :=
  if_pos (arbiterNext_iff.2 h)

theorem takeAn_waits {s : State} (h : ¬ NextInLine s .an) : takeAn s = s := if_neg fun hx => h (arbiterNext_iff.1 hx)

theorem takeDwell_armed {s : State} (h : NextInLine s .dwell) (ha : s.tsq.state = .armed) :
    takeDwell s
      = transition .dwell (currentStage s).dwellTarget (currentStage s).dwellActions (takeInput .dwell s) := by
  simp only [takeDwell, arbiterNext_iff.2 h, ha, if_true]

theorem takeDwell_waits {s : State} (h : ¬ NextInLine s .dwell) : takeDwell s = s :=
  if_neg fun hx => h (arbiterNext_iff.1 hx)

theorem takeArmCommand_waits {s : State} (h : ¬ NextInLine s .command) : takeArmCommand s = s :=
  if_neg fun hx => h (arbiterNext_iff.1 hx.1)

theorem takeDisarmCommand_waits {s : State} (h : ¬ NextInLine s .command) : takeDisarmCommand s = s :=
  if_neg fun hx => h (arbiterNext_iff.1 hx.1)

/-- Settles O18: an edge writes the XT latch alone, and a take asks the arbiter first. -/
theorem inputsWaitForTheArbiter : Obligations.InputsWaitForTheArbiter := by
  intro s hp
  refine ⟨whenPowered_up hp, fun h1 h2 => ?_, fun h => ?_, fun h => ?_, fun h => ?_, fun h => ⟨?_, ?_⟩⟩
  · rw [exec_takeReport hp, takeReport_waits h1 h2]
  · rw [exec_takeXtInput hp, takeXt_waits h]
  · rw [exec_takeAnInput hp, takeAn_waits h]
  · rw [exec_dwellExpiry hp, takeDwell_waits h]
  · rw [exec_takeArm hp, takeArmCommand_waits h]
  · rw [exec_takeDisarm hp, takeDisarmCommand_waits h]

/-! ### Reports and their answers (R59, R99) -/

/-- R59: a report whose input takes no exit with FENCE is answered FORWARD. -/
theorem takeReport_forwards {hits : Byte} {s u : State} (h : NextInLine s .rqpReport) (hr : s.tsq.rqpReport = some hits)
    (hc : countInput (hits.setWidth 10) (takeInput .rqpReport s) = (false, u)) : takeReport s = forwardRequest u := by
  have hc' : countInput (reportSources (s.tsq.rqpReport.getD 0)) (takeInput .rqpReport s) = (false, u) := by
    rw [hr]; exact hc
  simp only [takeReport_rqp h, takeRqpReport, hc', Bool.false_eq_true, if_false]

/-- R59, R86: a report whose input takes an exit with FENCE. -/
theorem takeReport_fences {hits : Byte} {s u : State} (h : NextInLine s .rqpReport) (hr : s.tsq.rqpReport = some hits)
    (hc : countInput (hits.setWidth 10) (takeInput .rqpReport s) = (true, u)) : takeReport s = fenceRequest u := by
  have hc' : countInput (reportSources (s.tsq.rqpReport.getD 0)) (takeInput .rqpReport s) = (true, u) := by
    rw [hr]; exact hc
  simp only [takeReport_rqp h, takeRqpReport, hc', if_true]

/-- R59, R88: RSP answers its report by the verdict. -/
theorem takeReport_answers {hits : Byte} {f : Bool} {s u : State} (h : NextInLine s .rspReport)
    (hr : s.tsq.rspReport = some hits)
    (hc : countInput (hits.setWidth 10) (takeInput .rspReport s) = (f, u)) : takeReport s = answerResponse f u := by
  have hc' : countInput (reportSources (s.tsq.rspReport.getD 0)) (takeInput .rspReport s) = (f, u) := by
    rw [hr]; exact hc
  simp only [takeReport_rsp h, takeRspReport, hc']

theorem rqpReport_pending {s : State} (h : NextInLine s .rqpReport) : ∃ hits, s.tsq.rqpReport = some hits :=
  Option.isSome_iff_exists.1 h.pending

theorem rspReport_pending {s : State} (h : NextInLine s .rspReport) : ∃ hits, s.tsq.rspReport = some hits :=
  Option.isSome_iff_exists.1 h.pending

/-- R165: a request that waits for its verdict goes to the hold point on FORWARD. -/
theorem forwardRequest_waiting {t : RqpTxn} {s : State} (h : s.rqp.inProcess = some t) (hp : t.phase = .verdictWait) :
    forwardRequest s = setTxn (some { t with phase := .holdPoint }) s := by
  simp only [forwardRequest, h, hp, if_true]

/-- What `ResponseForwarded` says does not depend on TSQ before the answer. -/
theorem ResponseForwarded.ofTsq {x : RspTxn} {q : Tsq} {s t : State} (h : ResponseForwarded x (s.setTsq q) t) :
    ResponseForwarded x s t := h

/-- R55, R59: an input of RQP's report that leaves all but TSQ as it was is answered FORWARD. -/
theorem takeReport_request_forwarded {hits : Byte} {t : RqpTxn} {q : Tsq} {s : State} (h : NextInLine s .rqpReport)
    (hr : s.tsq.rqpReport = some hits) (ht : s.rqp.inProcess = some t) (hp : t.phase = .verdictWait)
    (hc : countInput (hits.setWidth 10) (takeInput .rqpReport s) = (false, s.setTsq q)) :
    takeReport s = (setTxn (some { t with phase := .holdPoint }) s).setTsq q := by
  rw [takeReport_forwards h hr hc, forwardRequest_waiting (s := s.setTsq q) ht hp]
  rfl

/-- R55, R59: an input of RSP's report that leaves all but TSQ as it was is answered FORWARD. -/
theorem takeReport_response_forwarded {hits : Byte} {t : RspTxn} {q : Tsq} {s : State} (h : NextInLine s .rspReport)
    (hr : s.tsq.rspReport = some hits) (ht : s.rsp.inProcess = some t)
    (hc : countInput (hits.setWidth 10) (takeInput .rspReport s) = (false, s.setTsq q)) :
    ResponseForwarded t s (takeReport s) ∧ (takeReport s).tsq = q := by
  rw [takeReport_answers h hr hc]
  exact ⟨(answerResponse_forwarded (s := s.setTsq q) ht).ofTsq, by simp⟩

/-- Settles O19: outside ARMED an input leaves its latch uncounted, so a report is answered FORWARD at once. -/
theorem outsideArmedInputsAreAnsweredUncounted : Obligations.OutsideArmedInputsAreAnsweredUncounted := by
  intro s hp ha
  have hc : ∀ i sources, countInput sources (takeInput i s) = (false, takeInput i s) := fun i sources =>
    countInput_outside (by cases i <;> exact ha)
  refine ⟨fun t h ht hph => ?_, fun t h ht htr => ?_, fun t h ht _ => ?_, fun h => ?_, fun h => ?_⟩
  · obtain ⟨hits, hr⟩ := rqpReport_pending h
    rw [exec_takeReport hp, takeReport_request_forwarded h hr ht hph (hc _ _)]
    rfl
  · obtain ⟨hits, hr⟩ := rspReport_pending h
    rw [exec_takeReport hp, takeReport_answers h hr (hc _ _),
      answerResponse_untraced (s := takeInput .rspReport s) ht htr]
    rfl
  · obtain ⟨hits, hr⟩ := rspReport_pending h
    exact ⟨_, exec_takeReport hp, takeReport_response_forwarded h hr ht (hc _ _)⟩
  · rw [exec_takeXtInput hp, takeXt_next h, hc]
    rfl
  · rw [exec_takeAnInput hp, takeAn_next h, hc]
    rfl

/-- Settles O20: no exit is at its count after the input, so the input only counts, and a report is answered FORWARD. -/
theorem inputsAdvanceTheExitCounters : Obligations.InputsAdvanceTheExitCounters := by
  intro s sources c0 c1 hp ha h0 h1 hlt0 hlt1
  have hc : ∀ i, countInput sources (takeInput i s)
      = (false, s.setTsq { clearLatch s.tsq i with pointer := i.next, counter0 := c0, counter1 := c1 }) := by
    rw [h0, ← effectiveCount_eq] at hlt0
    rw [h1, ← effectiveCount_eq] at hlt1
    rw [h0, h1]
    intro i
    cases i <;> exact countInput_counts ha hlt0 hlt1
  refine ⟨fun t h hs hr ht hph => ?_, fun t hits h hs hr ht => ?_, fun h hs => ?_, fun h hs => ?_⟩
  · rw [exec_takeReport hp, takeReport_request_forwarded h hr ht hph (hs ▸ hc _)]
    rfl
  · exact ⟨_, exec_takeReport hp, takeReport_response_forwarded h hr ht (hs ▸ hc _)⟩
  · rw [exec_takeXtInput hp, takeXt_next h, xtSources, ← hs, hc]
    rfl
  · rw [exec_takeAnInput hp, takeAn_next h, anSources, ← hs, hc]
    rfl

/-! ### Exits and the dwell expiry taken (R55 to R59, R64) -/

/-- `TransitionTaken` reads the latches and the priority pointer through the sequencer after the transition alone. -/
theorem TransitionTaken.of_after {c : StageCause} {target : BitVec 3} {a : BitVec 7} {q r : Tsq} {s t : State}
    (h : TransitionTaken c target a q s t) (hq : afterTransition target q = afterTransition target r) :
    TransitionTaken c target a r s t := by
  obtain ⟨hacts, hreq, hrec, htsq, hrest⟩ := h
  exact ⟨hacts, hreq, hrec, htsq.trans hq, hrest⟩

/-- R78: a transition leaves a request that waits for its verdict where it is. -/
theorem transition_keeps_waiting {y : RqpTxn} {s : State} (h : s.rqp.inProcess = some y) (hp : y.phase = .verdictWait)
    (c : StageCause) (target : BitVec 3) (a : BitVec 7) (i : Input) :
    (transition c target a (takeInput i s)).rqp.inProcess = some y := by
  obtain ⟨_, ⟨_, _, hother, _⟩, _⟩ := transition_taken c target a i s
  exact hother y h (by rw [hp]; exact nofun) (by rw [hp]; exact nofun)

/-- Settles O21: the input takes the exit that it brings to its count, and a report without FENCE is answered FORWARD after
the transition. -/
theorem anExitIsTakenAtItsCount : Obligations.AnExitIsTakenAtItsCount := by
  intro s x cause sources hp ha hx
  have hc : ∀ i, countInput sources (takeInput i s)
      = (Action.fence x.actions, transition cause x.target x.actions (takeInput i s)) :=
    fun i => countInput_reached i ha hx
  have ht := fun i => transition_taken cause x.target x.actions i s
  refine ⟨fun h hs => ?_, fun h hs => ?_, fun y h hs hr hy hph hf => ?_, fun y hits h hs hr hy hf => ?_⟩
  · rw [exec_takeXtInput hp, takeXt_next h, xtSources, ← hs, hc]
    exact ⟨_, rfl, ht .xt⟩
  · rw [exec_takeAnInput hp, takeAn_next h, anSources, ← hs, hc]
    exact ⟨_, rfl, ht .an⟩
  · rw [exec_takeReport hp, takeReport_forwards h hr (by rw [← hs, hc, hf]),
      forwardRequest_waiting (transition_keeps_waiting hy hph ..) hph]
    exact ⟨_, rfl, ht .rqpReport⟩
  · rw [exec_takeReport hp, takeReport_answers h hr (by rw [← hs, hc, hf])]
    exact ⟨_, _, rfl, answerResponse_forwarded (by simpa using hy), by simp, ht .rspReport⟩

/-- Settles O23: the transition to the dwell target; that the expiry left its latch shows no more once it has cleared the
dwell. -/
theorem aDwellExpiryLeadsToTheDwellTarget : Obligations.ADwellExpiryLeadsToTheDwellTarget := by
  intro s hp ha h
  rw [exec_dwellExpiry hp, takeDwell_armed h ha]
  exact ⟨_, rfl, (transition_taken _ _ _ .dwell s).of_after rfl⟩

end Sys2Proof.Machine
namespace Sys2Proof.Machine

/-! ### ARM and DISARM taken (R49, R50, R66, R119) -/

/-- R49: TSQ once ARM is taken. -/
def Tsq.started (q : Tsq) : Tsq :=
  { q with
    state := .armed, stage := 0, counter0 := 0, counter1 := 0, dwellAge := 0, xt := false, an := false,
    dwellExpiry := false, command := none, pointer := .rqpReport }

/-- R50: TSQ once DISARM is taken. -/
def Tsq.stopped (q : Tsq) : Tsq :=
  { q with
    state := .idle, counter0 := 0, counter1 := 0, dwellAge := 0, dwellExpiry := false, command := none,
    pointer := .rqpReport }

theorem takeArmCommand_taken {s : State} (h : NextInLine s .command) (hc : s.tsq.command = some .arm) :
    takeArmCommand s = offerEvent (stageRecord 7 0 .arm 0 s.tbs.timestamp) (s.setTsq s.tsq.started) :=
  if_pos ⟨arbiterNext_iff.2 h, hc⟩

/-- R66: the "from" field of DISARM's STAGE record: the stage left, or FIRED. -/
def stoppedFrom (q : Tsq) : BitVec 3 := if q.state = .armed then BitVec.ofNat 3 q.stage.val else 4

/-- R50, R66: DISARM taken outside IDLE asks for its STAGE record. -/
theorem takeDisarmCommand_taken {s : State} (h : NextInLine s .command) (hc : s.tsq.command = some .disarm)
    (hi : s.tsq.state ≠ .idle) :
    takeDisarmCommand s
      = offerEvent (stageRecord (stoppedFrom s.tsq) 5 .disarm 0 s.tbs.timestamp) (s.setTsq s.tsq.stopped) := by
  refine (if_pos ⟨arbiterNext_iff.2 h, hc⟩).trans ?_
  unfold stoppedFrom
  cases hs : s.tsq.state with
  | idle => exact absurd hs hi
  | armed => rfl
  | fired => rfl

/-- R50: DISARM taken in IDLE. -/
theorem takeDisarmCommand_idle {s : State} (h : NextInLine s .command) (hc : s.tsq.command = some .disarm)
    (hi : s.tsq.state = .idle) : takeDisarmCommand s = s.setTsq s.tsq.stopped := by
  refine (if_pos ⟨arbiterNext_iff.2 h, hc⟩).trans ?_
  rw [hi]
  rfl

/-- R119: in RING a snapshot of at least one record keeps the store from making room, so a record that does not fit is
lost. -/
theorem offerEvent_pinned {r : Record} {n : Nat} {s : State} (hm : modeOf s = .ring) (hn : s.tst.snapshot = some n)
    (h0 : 0 < n) (hr : 0 < r.length)
    (hroom : Config.storeSlots < (composeGroup r s).flatten.length + fill s + reserved s) :
    RecordLost s (offerEvent r s) := by
  have hfull : ¬ slotsOf (composeGroup r s) ≤ freeSlots s := by
    have := record_le_group r s
    rw [flatten_length] at hroom
    simp only [freeSlots, Config.storeSlots] at *
    omega
  have hdrop : storeTake (composeGroup r s) r.length .unbacked s = (.droppedCounted, s) := by
    simp [storeTake, hm, ringTake, hfull, hn, h0]
  exact (offerRecord_lost (by rw [hm]; decide) hdrop).1

/-- Settles O24: either command writes TSQ and then offers its STAGE record, which reaches the store, TCU and ALC alone. -/
theorem armAndDisarmAreTaken : Obligations.ArmAndDisarmAreTaken := by
  intro s hp h
  refine ⟨fun hc => ?_, fun hc => ?_⟩
  · rw [exec_takeArm hp, takeArmCommand_taken h hc]
    refine ⟨_, rfl, by simp [Tsq.started], fun hf => ?_, fun n hm hn h0 hroom => ?_, by simp⟩
    · exact (offerEvent_stored (s := s.setTsq s.tsq.started) hf).1
    · exact offerEvent_pinned (s := s.setTsq s.tsq.started) hm hn h0 Nat.one_pos hroom
  · rw [exec_takeDisarm hp]
    by_cases hi : s.tsq.state = .idle
    · rw [takeDisarmCommand_idle h hc hi]
      exact ⟨_, rfl, rfl, fun _ => ⟨rfl, rfl, rfl⟩, fun _ hne => absurd hi hne, by simp⟩
    · rw [takeDisarmCommand_taken h hc hi]
      refine ⟨_, rfl, by simp [Tsq.stopped], fun hx => absurd hx hi, fun r _ hr hf => ?_, by simp⟩
      subst hr
      exact (offerEvent_stored (s := s.setTsq s.tsq.stopped) hf).1

/-! ### Ticks at which a limit runs out (R63, R73, R81) -/

/-- A tick named by an outcome that it has is the tick. -/
theorem tickWhen_outcome {outcome : State → State → Bool} {s : State} (h : outcome s (tickEvent s) = true) :
    tickWhen outcome s = tickEvent s := if_pos h

/-- R81: the hold ends at its limit and raises HOLD_EXPIRED. -/
theorem rqpTick_expires {s : State} (hh : s.rqp.held = true) (hl : s.rqp.holdLimit ≠ 0)
    (hle : s.rqp.holdLimit.toNat ≤ (satInc s.rqp.holdAge).toNat) :
    rqpTick s
      = settleRoom (raise .holdExpired (releaseFlag (s.setRqp { s.rqp with holdAge := satInc s.rqp.holdAge }))) := by
  simp only [rqpTick, hh, if_true, State.setRqp_rqp]
  exact if_pos ⟨hl, hle⟩

/-- R81: what the tick at the limit leaves of the hold. -/
theorem tickEvent_holdExpired {s : State} (hh : s.rqp.held = true) (hl : s.rqp.holdLimit ≠ 0)
    (hle : s.rqp.holdLimit.toNat ≤ (satInc s.rqp.holdAge).toNat) :
    (tickEvent s).rqp.held = false ∧ (tickEvent s).rqp.holdAge = satInc s.rqp.holdAge
      ∧ (tickEvent s).rqp.holdLimit = s.rqp.holdLimit ∧ (tickEvent s).alc.pending.getLsbD 4 = true := by
  obtain ⟨hheld, hage, hlimit, _, _⟩ := ottTick_others (ticked s)
  have hheld' : (ottTick (ticked s)).rqp.held = true := hheld.trans hh
  have hage' : (ottTick (ticked s)).rqp.holdAge = s.rqp.holdAge := hage
  have hlimit' : (ottTick (ticked s)).rqp.holdLimit = s.rqp.holdLimit := hlimit
  have hbit : Cause.holdExpired.bit.getLsbD 4 = true := rfl
  have hrqp := rqpTick_expires hheld' (by rwa [hlimit']) (by rwa [hlimit', hage'])
  simp [tickEvent_eq, hrqp, settleRoom_held, raise_pending, hbit, hage', hlimit']

/-- R63: at its limit the dwell age sets the expiry latch. -/
theorem Tsq.ticked_expires {q : Tsq} (ha : q.state = .armed) (hl : q.stages[q.stage].dwellLimit ≠ 0)
    (he : q.dwellExpiry = false) (hage : q.dwellAge + 1 = q.stages[q.stage].dwellLimit) :
    q.ticked = { q with dwellAge := q.stages[q.stage].dwellLimit, dwellExpiry := true } := by
  unfold Tsq.ticked
  rw [if_pos ⟨ha, hl, he⟩, hage, decide_eq_true rfl]

/-- R63: what the tick at the limit leaves of the dwell. -/
theorem tickEvent_dwellReached {s : State} (ha : s.tsq.state = .armed) (hl : (currentStage s).dwellLimit ≠ 0)
    (he : s.tsq.dwellExpiry = false) (hage : s.tsq.dwellAge + 1 = (currentStage s).dwellLimit) :
    (tickEvent s).tsq.dwellExpiry = true ∧ (tickEvent s).tsq.dwellAge = (currentStage s).dwellLimit
      ∧ (tickEvent s).tsq.state = .armed ∧ (tickEvent s).tsq.stage = s.tsq.stage := by
  obtain ⟨_, _, _, _, hott⟩ := ottTick_others (ticked s)
  obtain ⟨hstages, hstate, hstage, _, _, hdwell, hexp⟩ := hott.progress
  have hcur : (ottTick (ticked s)).tsq.stages[(ottTick (ticked s)).tsq.stage] = currentStage s := by
    simp only [Fin.getElem_fin, hstages, hstage]
    rfl
  rw [tickEvent_tsq, Tsq.ticked_expires (hstate.trans ha) (by rwa [hcur]) (hexp.trans he)
    (by rw [hcur, hdwell]; exact hage)]
  exact ⟨rfl, hcur ▸ rfl, hstate.trans ha, hstage⟩

theorem tickEvent_pulse (s : State) : (tickEvent s).pulse = if s.pulse = .driving 0 then .driving 1 else .low := by
  simp [tickEvent_eq, pulseTick_pulse, Machine.ticked]

/-- Settles O29: each named tick has its outcome, so it is the tick. -/
theorem limitsRunOutAtTheTick : Obligations.LimitsRunOutAtTheTick := by
  intro s hp
  have hnamed : ∀ outcome : State → State → Bool, outcome s (tickEvent s) = true →
      whenPowered (tickWhen outcome) s = .next (tickEvent s) := fun outcome h => by
    rw [whenPowered_up hp, tickWhen_outcome h]
  refine ⟨fun hh hl hle => ?_, fun ha hl he hage => ?_, fun hdriving => ?_⟩
  · have ht := tickEvent_holdExpired hh hl hle
    exact ⟨_, hnamed holdExpires (by simp [holdExpires, hh, ht.1]), exec_tick hp, ht⟩
  · have ht := tickEvent_dwellReached ha hl he hage
    exact ⟨_, hnamed dwellReached (by simp [dwellReached, he, ht.1]), exec_tick hp, ht⟩
  · have ht : (tickEvent s).pulse = .low := by rw [tickEvent_pulse, hdriving]; rfl
    exact ⟨_, hnamed pulseEnds (by simp [pulseEnds, hdriving, ht]), exec_tick hp, ht⟩

/-! ### Commands that write the registers of one block (R48, R92, R144, R150, R193) -/

/-- R183: a command taken at the end of its frame, sent whole between frames, writes MGP behind its effect. -/
theorem whenPowered_endFrame {f : List Byte} {take : State → Status × State} {st : Status} {s t : State}
    (hb : BetweenFrames s) (ht : take s = (st, t)) (hp : t.pins = s.pins) :
    whenPowered (endFrame f take) s = .next (t.setMgp (Mgp.idle st)) := by
  rw [whenPowered_up (powered_of_between hb), endFrame_between hb, ht, closeFrame_between hb hp]

theorem latchArm_ok {s : State} (hc : s.tsq.command = none) (ha : s.tsq.state ≠ .armed) :
    latchArm s = (.ok, s.setTsq { s.tsq with command := some .arm }) := if_pos ⟨by rw [hc]; rfl, ha⟩

theorem latchArm_busy {s : State} (h : s.tsq.command ≠ none ∨ s.tsq.state = .armed) : latchArm s = (.busy, s) :=
  if_neg fun ⟨hc, ha⟩ => h.elim (fun hne => hne (Option.isNone_iff_eq_none.1 hc)) ha

theorem latchDisarm_ok {s : State} (hc : s.tsq.command = none) :
    latchDisarm s = (.ok, s.setTsq { s.tsq with command := some .disarm }) := if_pos (by rw [hc]; rfl)

theorem latchDisarm_busy {s : State} (h : s.tsq.command ≠ none) : latchDisarm s = (.busy, s) :=
  if_neg fun hc => h (Option.isNone_iff_eq_none.1 hc)

/-- Settles O45: the latches give their status, and the other four are action frames with one block's effect. -/
theorem registerCommandsChangeTheirBlock : Obligations.RegisterCommandsChangeTheirBlock := by
  intro causes s hb
  refine ⟨fun hc ha => ?_, fun h => ?_, fun hc => ?_, fun h => ?_, ?_, ?_, ?_, ?_⟩
  · exact whenPowered_endFrame hb (latchArm_ok hc ha) rfl
  · exact whenPowered_endFrame hb (latchArm_busy h) rfl
  · exact whenPowered_endFrame hb (latchDisarm_ok hc) rfl
  · exact whenPowered_endFrame hb (latchDisarm_busy h) rfl
  · exact whenPowered_actionFrame (effect := setCapturing true) hb rfl
  · exact whenPowered_actionFrame (effect := setCapturing false) hb rfl
  · exact whenPowered_endFrame (st := .ok) (t := acknowledge (causes.extractLsb' 0 6) s) hb rfl rfl
  · exact whenPowered_actionFrame (effect := clearSummary) hb rfl

end Sys2Proof.Machine
namespace Sys2Proof.Machine

/-! ### What a transition leaves to the answers behind it (R57, R58) -/

/-- R58, R94: with no request waiting for room a transition leaves the capture configuration but CAPTURING, and the
capture in hand. -/
theorem transition_capture {s : State} (h : NoneWaitsForRoom s) (c : StageCause) (target : BitVec 3) (a : BitVec 7)
    (i : Input) :
    (transition c target a (takeInput i s)).tcu.byChannels = s.tcu.byChannels
      ∧ (transition c target a (takeInput i s)).tcu.captureSet = s.tcu.captureSet
      ∧ (transition c target a (takeInput i s)).tcu.firstBeat = s.tcu.firstBeat
      ∧ (transition c target a (takeInput i s)).tcu.capture = s.tcu.capture := by
  have hd : (deliver a (takeInput i s)).tcu = { s.tcu with capturing := (deliver a (takeInput i s)).tcu.capturing } :=
    deliver_tcu (s := takeInput i s) h
  simp only [transition, raiseIf_frame, State.setTsq_tcu, offerEvent, offerRecord_tcu]
  rw [hd]
  exact ⟨rfl, rfl, rfl, rfl⟩

/-- R58: a transition changes nothing in the request in RQP but its phase. -/
theorem transition_inProcess {x : RqpTxn} {s : State} (h : s.rqp.inProcess = some x) (c : StageCause)
    (target : BitVec 3) (a : BitVec 7) (i : Input) :
    ∃ p, (transition c target a (takeInput i s)).rqp.inProcess = some { x with phase := p } := by
  obtain ⟨p, hp, _⟩ := deliver_inProcess (a := a) (s := takeInput i s) h
  obtain ⟨_, _, _, ht⟩ := transition_delivered c target a (takeInput i s)
  exact ⟨p, ht.trans hp⟩

/-- What is delivered and asked for by a transition stands when a later answer leaves RQP's hold, CAPTURING, the pulse and
the causes other than THRESHOLD and LOSS. -/
theorem ActionsDelivered.kept {a : BitVec 7} {target : BitVec 3} {s v u : State} (h : ActionsDelivered a target s v)
    (hheld : u.rqp.held = v.rqp.held) (hage : u.rqp.holdAge = v.rqp.holdAge)
    (hcap : u.tcu.capturing = v.tcu.capturing) (hpulse : u.pulse = v.pulse)
    (halc : ∀ i, i ≠ 2 → i ≠ 3 → u.alc.pending.getLsbD i = v.alc.pending.getLsbD i) : ActionsDelivered a target s u :=
  h.of_eq rfl rfl rfl rfl rfl hheld.symm hage.symm hcap.symm hpulse.symm fun i h2 h3 => (halc i h2 h3).symm

/-! ### A fenced request (R86, R98) -/

/-- R86: the fenced request has left RQP and its answer stands in the queue, before its records. -/
def fenceAnswered (x : RqpTxn) (s : State) : State := enqueue (answerTo x.req .fenced) (setTxn none s)

theorem fenceRequest_eq {x : RqpTxn} {s : State} (h : s.rqp.inProcess = some x) :
    fenceRequest s
      = if eligible x.hits s then fencedRecords x (fenceAnswered x s) else fenceAnswered x s := by
  simp only [fenceRequest, h]
  rfl

/-- R98: the records of a fenced request leave CAPTURING and the causes but THRESHOLD and LOSS. -/
theorem fencedRecords_kept (x : RqpTxn) (s : State) :
    (fencedRecords x s).tcu.capturing = s.tcu.capturing
      ∧ ∀ i, i ≠ 2 → i ≠ 3 → (fencedRecords x s).alc.pending.getLsbD i = s.alc.pending.getLsbD i := by
  unfold fencedRecords
  dsimp only
  split
  · refine ⟨by simp only [offerEvent, offerRecord_tcu], fun i h2 h3 => ?_⟩
    rw [(offerEvent_alc _ _).2 i h2 h3, (offerRecord_alc _ _ _ _).2 i h2 h3]
  · exact ⟨(offerRecord_tcu ..).1, (offerRecord_alc ..).2⟩

/-- R86: what a fenced request leaves, whatever becomes of its records. -/
theorem fenceRequest_leaves {x : RqpTxn} {s : State} (h : s.rqp.inProcess = some x) :
    (fenceRequest s).rmg = { s.rmg with queue := s.rmg.queue ++ [answerTo x.req .fenced] }
      ∧ (fenceRequest s).rqp = { s.rqp with inProcess := none }
      ∧ (fenceRequest s).tcu.capturing = s.tcu.capturing
      ∧ ∀ i, i ≠ 2 → i ≠ 3 → (fenceRequest s).alc.pending.getLsbD i = s.alc.pending.getLsbD i := by
  obtain ⟨hcap, halc⟩ := fencedRecords_kept x (fenceAnswered x s)
  rw [fenceRequest_eq h]
  split
  · exact ⟨by simp [fenceAnswered, enqueue], by simp [fenceAnswered], hcap, halc⟩
  · exact ⟨rfl, rfl, rfl, fun _ _ _ => rfl⟩

/-- R94: CAPTURING clear, or the filter CHANNELS without a channel in common. -/
theorem not_captured {hits : Byte} {s : State}
    (h : s.tcu.capturing = false ∨ (s.tcu.byChannels = true ∧ hits &&& s.tcu.captureSet = 0)) : ¬ Captured hits s := by
  rintro ⟨-, hon, hchannel⟩
  rcases h with hoff | ⟨hby, hz⟩
  · rw [hoff] at hon; cases hon
  · rcases hchannel with hall | hne
    · rw [hby] at hall; cases hall
    · exact hne hz

/-- R98: a request that is not to be captured leaves no record. -/
theorem fenceRequest_uncaptured {x : RqpTxn} {s : State} (h : s.rqp.inProcess = some x) (hc : ¬ Captured x.hits s) :
    fenceRequest s = fenceAnswered x s := by
  rw [fenceRequest_eq h, if_neg fun he => hc (eligible_iff.1 he)]

/-- R98: the two records of a captured request stand behind a record `r` just stored, with room for the three. -/
theorem fenceRequest_captured {x : RqpTxn} {r q : Record} {s v : State} (h : v.rqp.inProcess = some x)
    (hc : Captured x.hits v) (hr : RecordStored r s v) (hb : v.tbs = s.tbs) (ho : v.ott = s.ott)
    (hcap : v.tcu.capture = s.tcu.capture)
    (hq : q = requestFull x.req (withFirstBeat x.req v) true slotNone s.tbs.timestamp)
    (hf : FitsAsItIs s ((composeGroup r s).flatten.length + (q.length + 1))) :
    (fenceRequest v).tst.records = s.tst.records ++ composeGroup r s ++ [q]
        ++ [responseRecord .fenced x.req.initiator x.req.tag slotNone 0 none s.tbs.timestamp]
      ∧ (fenceRequest v).tcu.refValid = true ∧ (fenceRequest v).tcu.refAddr = x.req.addr
      ∧ (fenceRequest v).tcu.refContext = x.req.context := by
  have hgroup : composeGroup q (fenceAnswered x v) = [q] := hr.next_group hb
  have hfits : FitsAsItIs (fenceAnswered x v) ((composeGroup q (fenceAnswered x v)).flatten.length + 1) := by
    rw [hgroup, List.flatten_singleton]
    exact (hr.fits_next (q := q) hb ho hcap hf).1
  obtain ⟨hrecords, href⟩ := fencedRecords_stored (t := x) (s := fenceAnswered x v)
    (show q = requestFull x.req (withFirstBeat x.req v) true slotNone v.tbs.timestamp by rw [hb]; exact hq) hfits
  have hstored : (fenceAnswered x v).tst.records = s.tst.records ++ composeGroup r s :=
    congrArg Tst.records hr.1
  have hnow : (fenceAnswered x v).tbs.timestamp = s.tbs.timestamp := congrArg Tbs.timestamp hb
  rw [fenceRequest_eq h, if_pos (eligible_iff.2 hc)]
  rw [hstored, hgroup, hnow] at hrecords
  exact ⟨hrecords, href⟩

/-! ### A fenced response (R88, R99) -/

/-- R99: a response answered leaves CAPTURING and the causes but THRESHOLD and LOSS. -/
theorem answerResponse_kept (f : Bool) (s : State) :
    (answerResponse f s).tcu.capturing = s.tcu.capturing
      ∧ ∀ i, i ≠ 2 → i ≠ 3 → (answerResponse f s).alc.pending.getLsbD i = s.alc.pending.getLsbD i := by
  unfold answerResponse
  split
  · dsimp only
    split
    · exact ⟨(offerRecord_tcu ..).1, (offerRecord_alc ..).2⟩
    · exact ⟨rfl, fun _ _ _ => rfl⟩
  · exact ⟨rfl, fun _ _ _ => rfl⟩

/-- R88, R99: the RESPONSE record of a traced entry whose response is fenced: status FENCED, no data. -/
theorem answerResponse_fencedRecord {x : RspTxn} {s : State} (h : s.rsp.inProcess = some x)
    (ht : (entry s x.slot).traced = true) :
    ResponseRecordTaken (entryRecord .fenced none x.slot s) x.slot s (answerResponse true s) := by
  simp only [answerResponse, h, ht, if_true]
  exact offerRecord_response (entryRecord .fenced none x.slot s) x.slot s

/-- R99: the RESPONSE record reads the entry and the timestamp alone. -/
theorem entryRecord_congr {s t : State} (ho : t.ott = s.ott) (hb : t.tbs = s.tbs) (st : RecordStatus)
    (beat : Option BeatData) (n : Fin 64) : entryRecord st beat n t = entryRecord st beat n s := by
  simp only [entryRecord, entry_congr ho, hb]

/-! ### A report whose take reaches an exit with FENCE -/

/-- R86: the request's report: the transition, and behind it the request answered FENCED. -/
theorem takeReport_fencedRequest {hits : Byte} {x : Exit} {cause : StageCause} {s : State}
    (h : NextInLine s .rqpReport) (ha : s.tsq.state = .armed) (hx : ExitReached x cause (hits.setWidth 10) s)
    (hf : Action.fence x.actions = true) (hr : s.tsq.rqpReport = some hits) :
    takeReport s = fenceRequest (transition cause x.target x.actions (takeInput .rqpReport s)) :=
  takeReport_fences h hr (by rw [countInput_reached .rqpReport ha hx, hf])

/-- R88: the response's report: the transition, and behind it the response answered FENCED. -/
theorem takeReport_fencedResponse {hits : Byte} {x : Exit} {cause : StageCause} {s : State}
    (h : NextInLine s .rspReport) (ha : s.tsq.state = .armed) (hx : ExitReached x cause (hits.setWidth 10) s)
    (hf : Action.fence x.actions = true) (hr : s.tsq.rspReport = some hits) :
    takeReport s = answerResponse true (transition cause x.target x.actions (takeInput .rspReport s)) :=
  takeReport_answers h hr (by rw [countInput_reached .rspReport ha hx, hf])

/-- Settles O22: behind the transition the request or response is answered FENCED; its records follow the STAGE record. -/
theorem fencedTransactionsAreAnsweredFenced : Obligations.FencedTransactionsAreAnsweredFenced := by
  intro s hits x cause stage hp ha hx hf hstage
  refine ⟨fun t h hr ht => ?_, fun t h hr ht => ?_⟩
  · have htaken := transition_taken cause x.target x.actions .rqpReport s
    have hinp := transition_inProcess ht cause x.target x.actions .rqpReport
    have hcapture := fun hno => transition_capture (s := s) hno cause x.target x.actions .rqpReport
    rw [exec_takeReport hp, takeReport_fencedRequest h ha hx hf hr]
    generalize transition cause x.target x.actions (takeInput .rqpReport s) = v at htaken hinp hcapture
    obtain ⟨p, hv⟩ := hinp
    obtain ⟨hacts, -, hrec, htsq, hott, hmu, hrsp, hrmg, hans, htbs, -⟩ := htaken
    obtain ⟨hurmg, hurqp, hucap, hualc⟩ := fenceRequest_leaves hv
    have hnone : t.phase = .verdictWait → NoneWaitsForRoom s := fun hph y hy => by
      rw [ht] at hy
      cases hy
      rw [hph]
      exact nofun
    refine ⟨_, rfl, by rw [hurmg, hrmg]; rfl, by rw [hurqp], by simp [hott], by simp [hmu], by simp [hans],
      by simp [hrsp], by simp [htbs], hacts.kept (by rw [hurqp]) (by rw [hurqp]) hucap (by simp) hualc,
      Eq.trans (by simp) htsq, fun hph hnot hfit => ?_, fun hph hyes hch q hq hfit => ?_⟩
    · obtain ⟨hby, hset, -⟩ := hcapture (hnone hph)
      rw [fenceRequest_uncaptured hv (not_captured (by rw [hby, hset, ← hucap]; exact hnot))]
      exact hrec (hnone hph) stage hstage hfit
    · obtain ⟨hby, hset, hbeat, hcap⟩ := hcapture (hnone hph)
      have hstored : RecordStored stage s v :=
        hrec (hnone hph) stage hstage ⟨hfit.1, hfit.2.1, by have := hfit.2.2; omega⟩
      have hmode : modeOf v = modeOf s := by simp only [modeOf, hstored.1]
      have hcaptured : Captured t.hits v :=
        ⟨by rw [hmode]; exact hfit.1, hucap ▸ hyes, by rw [hby, hset]; exact hch⟩
      exact fenceRequest_captured (x := { t with phase := p }) hv hcaptured hstored htbs hott hcap
        (by rw [hq, withFirstBeat, hbeat]; rfl) hfit
  · have htaken := transition_taken cause x.target x.actions .rspReport s
    have hcapture := fun hno => transition_capture (s := s) hno cause x.target x.actions .rspReport
    rw [exec_takeReport hp, takeReport_fencedResponse h ha hx hf hr]
    generalize transition cause x.target x.actions (takeInput .rspReport s) = v at htaken hcapture
    obtain ⟨hacts, hreq, hrec, htsq, hott, hmu, hrsp, hrmg, hans, htbs, -⟩ := htaken
    have hv : v.rsp.inProcess = some t := by rw [hrsp]; exact ht
    have he : entry v t.slot = entry s t.slot := entry_congr hott t.slot
    obtain ⟨hucap, hualc⟩ := answerResponse_kept true v
    refine ⟨_, rfl, ?_, by simp [hrmg], by simp [hmu], by simp [hans],
      hacts.kept (by simp) (by simp) hucap (by simp) hualc, ?_,
      Eq.trans (by simp) htsq, fun htr => ?_, fun htr => ⟨?_, fun hno => ?_⟩⟩
    · rw [answerResponse_rsp hv, he]; rfl
    · simpa only [RequestFollowsActions, answerResponse_frame] using hreq
    · rw [answerResponse_untraced hv (he ▸ htr)]
      exact ⟨hott, fun hno => hrec hno stage hstage⟩
    · obtain ⟨k, -, hk⟩ := answerResponse_entry true v t.slot
      rw [hk, he]
    · rw [← entryRecord_congr hott htbs]
      obtain ⟨-, -, -, hcap⟩ := hcapture hno
      exact .of_offers (hrec hno stage hstage) hott htbs hcap (answerResponse_fencedRecord hv (he ▸ htr))

end Sys2Proof.Machine
/-! PROOFS. The hold and the passage of the hold point (R76 to R80, R94, R123, R165, R169). -/
namespace Sys2Proof.Machine

/-! ### A request in ROOM_WAIT that goes on waiting (R123, R169) -/

/-- R116, R123: a claim has room when it fits the store beside the fill and the reserved count. -/
theorem le_freeSlots_iff {k : Nat} {s : State} (h0 : 0 < k) :
    k ≤ freeSlots s ↔ k + fill s + reserved s ≤ Config.storeSlots := by
  unfold freeSlots
  omega

/-- R123: a request in ROOM_WAIT whose claim is neither granted nor has room goes on waiting. -/
theorem settleRoom_waits {s : State} {t : RqpTxn} {c : Capture} (h : s.rqp.inProcess = some t)
    (hp : t.phase = .roomWait) (hc : s.tcu.capture = some c) (hg : c.granted = false) (h0 : 0 < c.claimSize)
    (hr : ¬ c.claimSize ≤ freeSlots s) : settleRoom s = s := by
  have hgrant : grantClaim s = s := by simp [grantClaim, hc, hr]
  have hunmet : claimSatisfied s = false := by simp [claimSatisfied, hc, hg, Nat.ne_of_gt h0]
  simp [settleRoom, h, hp, hgrant, hunmet]

/-- R169: a claim that is granted, or of size 0, or none, keeps no request waiting. -/
theorem claimSatisfied_iff {s : State} :
    claimSatisfied s = true ↔ ∀ c, s.tcu.capture = some c → c.granted = true ∨ c.claimSize = 0 := by
  unfold claimSatisfied
  cases s.tcu.capture with
  | none => simp
  | some c => simp

/-! ### The passage of the hold point (R80, R94, R169) -/

theorem exec_holdPointPass {s : State} (h : LinksUp s) : exec .holdPointPass s = .next (passHoldPoint s) :=
  whenLinkUp_up h

/-- R76: while the hold is in effect nothing passes. -/
theorem passHoldPoint_held {s : State} (hh : s.rqp.held = true) : passHoldPoint s = s := by
  unfold passHoldPoint
  cases s.rqp.inProcess with
  | none => rfl
  | some t => exact if_neg fun ⟨_, hfree⟩ => absurd (hh.symm.trans hfree) (by decide)

/-- R94: a request that is not to be captured leaves no capture in hand. -/
theorem decideCapture_uncaptured {t : RqpTxn} {s : State} (h : ¬ Captured t.hits s) :
    decideCapture t s = setCapture none s := by
  rw [decideCapture, if_neg (mt eligible_iff.1 h)]

/-- R78, R90: the state in which the capture decision of the request that passes has been made: at its first passage
the decision is made, later it stands. -/
def captureDecided (t : RqpTxn) (s : State) : State := if t.decided then s else decideCapture t s

@[simp] theorem captureDecided_rqp (t : RqpTxn) (s : State) : (captureDecided t s).rqp = s.rqp := by
  unfold captureDecided; split <;> simp

@[simp] theorem captureDecided_ott (t : RqpTxn) (s : State) : (captureDecided t s).ott = s.ott := by
  unfold captureDecided; split <;> simp

theorem passHoldPoint_eq {s : State} {t : RqpTxn} (h : s.rqp.inProcess = some t) (hp : t.phase = .holdPoint)
    (hh : s.rqp.held = false) :
    passHoldPoint s
      = settleRoom (setTxn (some { t with phase := .roomWait, decided := true }) (captureDecided t s)) := by
  simp only [passHoldPoint, h, hp, hh, and_self, if_true]
  rfl

/-- R80, R169: with no claim to wait for, the request that passes the hold point begins its offer. -/
theorem passHoldPoint_offers {s : State} {t : RqpTxn} {n : Fin 64} (h : s.rqp.inProcess = some t)
    (hp : t.phase = .holdPoint) (hh : s.rqp.held = false) (hc : claimSatisfied (captureDecided t s) = true)
    (hn : LowestFree s n) :
    passHoldPoint s = setTxn (some { t with phase := .offered n, decided := true }) (captureDecided t s) := by
  have hlow : LowestFree (setTxn (some { t with phase := .roomWait, decided := true }) (captureDecided t s)) n := by
    simpa [LowestFree, entry_congr (captureDecided_ott t s)] using hn
  rw [passHoldPoint_eq h hp hh, settleRoom_begins (s := setTxn _ (captureDecided t s)) rfl rfl (by simp [hh]) hc hlow]
  rfl

/-- Settles O9: nothing passes under the hold; without it the request's claim, none at a first passage without
capture and a satisfied one at a later passage, lets the offer begin. -/
theorem theHoldPointIsPassedIntoAnOffer : Obligations.TheHoldPointIsPassedIntoAnOffer := by
  refine ⟨fun s t n hup ht hp hd hn hcap => ⟨fun hh => ?first, fun hh => ?_⟩,
    fun s t n hup ht hp hd hn => ⟨fun hh hc => ?again, fun hh => ?_⟩⟩
  case first =>
    have hnot : ¬ Captured t.hits s := hcap.elim (fun hoff hyes => hyes.1 hoff) not_captured
    have hdec : captureDecided t s = setCapture none s := by
      simp [captureDecided, hd, decideCapture_uncaptured hnot]
    rw [exec_holdPointPass hup, passHoldPoint_offers ht hp hh (by rw [hdec]; rfl) hn, hdec]
    rfl
  case again =>
    have hdec : captureDecided t s = s := by simp [captureDecided, hd]
    rw [exec_holdPointPass hup, passHoldPoint_offers ht hp hh (by rwa [hdec, claimSatisfied_iff]) hn, hdec, ← hd]
    rfl
  all_goals rw [exec_holdPointPass hup, passHoldPoint_held hh]

/-! ### RELEASE_HOLD (R79, R80) -/

theorem exec_releaseHold {s : State} (hb : BetweenFrames s) :
    exec .releaseHold s = .next ((settleRoom (releaseFlag s)).setMgp (Mgp.idle .ok)) :=
  whenPowered_actionFrame (effect := release) hb (by simp [release])

/-- Settles O47: the flag falls, and what the request in RQP does then is `settleRoom` of the phase and the claim. -/
theorem releaseHoldEndsTheHold : Obligations.ReleaseHoldEndsTheHold := by
  intro s hb
  have hlow : ∀ {n}, LowestFree s n → LowestFree (releaseFlag s) n := fun h => by simpa [LowestFree] using h
  rw [exec_releaseHold hb]
  refine ⟨fun hnone => ?_, fun t c n ht hp hc hg hn => ?granted,
    fun t c n ht hp hc hg h0 hn => ⟨fun hroom => ?room, fun hfull => ?full⟩⟩
  · rw [settleRoom_same (s := releaseFlag s) hnone]
    rfl
  case granted =>
    have hsat : claimSatisfied (releaseFlag s) = true :=
      claimSatisfied_iff.2 fun d hd => .inl (by cases hc.symm.trans hd; exact hg)
    rw [settleRoom_begins (s := releaseFlag s) ht hp rfl hsat (hlow hn)]
    rfl
  case room =>
    rw [settleRoom_grants (s := releaseFlag s) ht hp rfl hc hg h0 ((le_freeSlots_iff h0).2 hroom) (hlow hn)]
    rfl
  case full =>
    rw [settleRoom_waits (s := releaseFlag s) ht hp hc hg h0 (mt (le_freeSlots_iff h0).1 (Nat.not_le.2 hfull))]
    rfl

end Sys2Proof.Machine
/-! PROOFS. The claim of a captured request and the outcomes of an offer (R94, R95, R104, R117 to R123, R126). -/
namespace Sys2Proof.Machine

/-! ### The claim of a captured request (R94, R95, R123) -/

/-- R94: the capture in hand that the capture decision gives a captured request, its claim not yet granted. -/
def captureOf (r : Request) (s : State) : Capture :=
  { withData := withFirstBeat r s, responseReservation := responseReservation r s, claimSize := claimSizeOf r s,
    granted := false }

/-- R94: at its first passage a captured request is given its capture in hand. -/
theorem captureDecided_captured {t : RqpTxn} {s : State} (hd : t.decided = false) (h : Captured t.hits s) :
    captureDecided t s = setCapture (some (captureOf t.req s)) s := by
  rw [captureDecided, hd, if_neg Bool.false_ne_true, decideCapture, if_pos (eligible_iff.2 h)]
  rfl

/-- R95: LOSS, SYNC, the REQUEST record in FULL form and the reservation make 7 slots with FIRST_BEAT, 5 without. -/
theorem captureOf_claimSize {r : Request} {s : State} (hm : modeOf s = .streamStall) :
    (captureOf r s).claimSize = if s.tcu.firstBeat then 7 else 5 := by
  cases hk : r.kind <;> cases hf : s.tcu.firstBeat <;>
    simp [captureOf, claimSizeOf, responseReservation, withFirstBeat, hm, hk, hf]

/-- R94: outside STREAM_STALL a capture asks for no claim and no response reservation. -/
theorem captureOf_plain {r : Request} {s : State} (hm : modeOf s ≠ .streamStall) :
    captureOf r s = { withData := decide (r.kind = .write) && s.tcu.firstBeat, responseReservation := 0, claimSize := 0,
                      granted := false } := by
  simp [captureOf, withFirstBeat, responseReservation, claimSizeOf, hm]

/-- R123: the request that passes the hold point with room for its claim gets it and begins its offer. -/
theorem passHoldPoint_grants {s : State} {t : RqpTxn} {c : Capture} {n : Fin 64} (h : s.rqp.inProcess = some t)
    (hp : t.phase = .holdPoint) (hh : s.rqp.held = false) (hc : captureDecided t s = setCapture (some c) s)
    (hg : c.granted = false) (h0 : 0 < c.claimSize) (hr : c.claimSize + fill s + reserved s ≤ Config.storeSlots)
    (hn : LowestFree s n) :
    passHoldPoint s = { s with
      rqp := { s.rqp with inProcess := some { t with phase := .offered n, decided := true } }
      tcu := { s.tcu with capture := some { c with granted := true } } } := by
  rw [passHoldPoint_eq h hp hh, hc]
  exact settleRoom_grants (s := setTxn _ (setCapture (some c) s)) rfl rfl hh rfl hg h0 ((le_freeSlots_iff h0).2 hr) hn

/-- R123: without room for its claim the request waits in ROOM_WAIT. -/
theorem passHoldPoint_waits {s : State} {t : RqpTxn} {c : Capture} (h : s.rqp.inProcess = some t)
    (hp : t.phase = .holdPoint) (hh : s.rqp.held = false) (hc : captureDecided t s = setCapture (some c) s)
    (hg : c.granted = false) (h0 : 0 < c.claimSize) (hr : Config.storeSlots < c.claimSize + fill s + reserved s) :
    passHoldPoint s = setTxn (some { t with phase := .roomWait, decided := true }) (setCapture (some c) s) := by
  rw [passHoldPoint_eq h hp hh, hc]
  exact settleRoom_waits (s := setTxn _ (setCapture (some c) s)) rfl rfl rfl hg h0
    (mt (le_freeSlots_iff h0).1 (Nat.not_le.2 hr))

/-- Settles O10: the first passage makes the capture decision; in STREAM_STALL its claim is of 7 or 5 slots and is granted
as room allows, in the other modes it is of 0 slots and keeps nothing waiting. -/
theorem aCapturedRequestClaimsRoom : Obligations.ACapturedRequestClaimsRoom := by
  refine ⟨fun s t n hup ht hp hd hh hn hm hon hch => ?stall, fun s t n hup ht hp hd hh hn hm hcap => ?plain⟩
  case stall =>
    have hdec := captureDecided_captured hd ⟨by rw [hm]; decide, hon, hch⟩
    have hsize := captureOf_claimSize (r := t.req) hm
    have h0 : 0 < (captureOf t.req s).claimSize := by rw [hsize]; split <;> decide
    refine ⟨captureOf t.req s, hsize, rfl, if_pos hm, fun hroom => ?_, fun hfull => ?_⟩
    · rw [exec_holdPointPass hup, passHoldPoint_grants ht hp hh hdec rfl h0 hroom hn]
    · rw [exec_holdPointPass hup, passHoldPoint_waits ht hp hh hdec rfl h0 hfull]
      rfl
  case plain =>
    have hdec := captureDecided_captured hd hcap
    rw [captureOf_plain hm] at hdec
    rw [exec_holdPointPass hup, passHoldPoint_offers ht hp hh (by rw [hdec]; rfl) hn, hdec]
    rfl

/-! ### The outcomes of an offer (R104, R117 to R121, R126) -/

/-- R127: the threshold in force lies between 1 and 4096. -/
theorem effectiveThreshold_eq (x : BitVec 13) : effectiveThreshold x = max 1 (min 4096 x.toNat) := by
  unfold effectiveThreshold
  split
  · omega
  · split <;> omega

/-- R126: an appended group raises THRESHOLD when the fill goes from below the threshold to it, and no other cause. -/
theorem appendGroup_alc (g : List Record) (b : Nat) (s : State) :
    (appendGroup g b s).alc = { s.alc with pending := s.alc.pending |||
      (if b < max 1 (min 4096 s.tst.threshold.toNat) ∧ max 1 (min 4096 s.tst.threshold.toNat) ≤ fill s + slotsOf g then
        0b000100 else 0) } := by
  have hfill : fill (s.setTst { s.tst with records := s.tst.records ++ g }) = fill s + slotsOf g := by
    simp only [fill, egressTail, State.setTst_tst, slotsOf_append]
    omega
  simp only [appendGroup, crosses, hfill, effectiveThreshold_eq, raiseIf, decide_eq_true_eq]
  split
  · rfl
  · simp

/-- R122: outside STREAM_STALL a group is offered without a claim or reservation. -/
theorem offerRecord_plain {r : Record} {b : Backing} {f : Option (Addr × Byte)} {s : State}
    (hm : modeOf s ≠ .streamStall) : offerRecord r b f s = offerRecord r .unbacked f s := by
  have hs : storeTake (composeGroup r s) r.length b s = storeTake (composeGroup r s) r.length .unbacked s := by
    cases h : modeOf s with
    | streamStall => exact absurd h hm
    | off | ring | stop | streamDrop => simp only [storeTake, h]
  simp only [offerRecord, hs]

/-- R120: in STOP, stopped or without room, a group is dropped uncounted and STOPPED is set. -/
theorem offerRecord_stopped {r : Record} {f : Option (Addr × Byte)} {s : State} (hm : modeOf s = .stop)
    (h : s.tst.stopped = true ∨ Config.storeSlots < (composeGroup r s).flatten.length + fill s + reserved s)
    (hr : 0 < r.length) :
    offerRecord r .unbacked f s = (false, (s.setTst { s.tst with stopped := true }).setTcu
      { s.tcu with syncNeeded := true, refValid := false }) := by
  have hno : ¬ (s.tst.stopped = false ∧ slotsOf (composeGroup r s) ≤ freeSlots s) := by
    rintro ⟨hgo, hfit⟩
    have hlen := record_le_group r s
    rw [flatten_length] at h
    rw [le_freeSlots_iff (by omega)] at hfit
    rcases h with h | h
    · rw [hgo] at h; cases h
    · omega
  have hs : storeTake (composeGroup r s) r.length .unbacked s
      = (.droppedUncounted, s.setTst { s.tst with stopped := true }) := by
    simp [storeTake, hm, stopTake, hno]
  simp [offerRecord, hm, hs, groupDropped]

/-- R121, R123: in the STREAM modes a group without room in the unclaimed free slots is dropped and counted. -/
theorem storeTake_streamFull {g : List Record} {k : Nat} {s : State}
    (hm : modeOf s = .streamDrop ∨ modeOf s = .streamStall) (h0 : 0 < slotsOf g)
    (h : Config.storeSlots < slotsOf g + claim s + fill s + reserved s) :
    storeTake g k .unbacked s = (.droppedCounted, s) := by
  have hno : ¬ slotsOf g ≤ unclaimedFree s := by simp only [unclaimedFree, freeSlots]; omega
  rcases hm with hm | hm
  · simp [storeTake, hm, dropTake, hno]
  · simp [storeTake, hm, stallTake, hno]

/-- R104: what a group dropped and counted leaves. -/
theorem offerRecord_counted {r : Record} {b : Backing} {f : Option (Addr × Byte)} {s : State} (hm : modeOf s ≠ .off)
    (h : storeTake (composeGroup r s) r.length b s = (.droppedCounted, s)) :
    offerRecord r b f s = (false, raise .loss (s.setTcu
      { s.tcu with lossCount := satInc s.tcu.lossCount, syncNeeded := true, refValid := false })) := by
  simp [offerRecord, hm, h, groupDropped]

theorem satAdd_toNat (x : Half) (n : Nat) : (satAdd x n).toNat = min 65535 (x.toNat + n) := by
  unfold satAdd
  split
  · rw [BitVec.toNat_ofNat, Nat.mod_eq_of_lt ‹_›]; omega
  · simp; omega

/-- R118: the store from which the `n` oldest records have left, counted. -/
def oldestRemoved (n : Nat) (s : State) : State :=
  s.setTst { s.tst with records := s.tst.records.drop n, overwrite := satAdd s.tst.overwrite n }

theorem oldestRemoved_zero (s : State) : oldestRemoved 0 s = s := by
  have h : satAdd s.tst.overwrite 0 = s.tst.overwrite :=
    BitVec.eq_of_toNat_eq (by rw [satAdd_toNat]; have := s.tst.overwrite.isLt; omega)
  rw [oldestRemoved, h]
  rfl

/-- R115: removing the oldest records frees their slots. -/
theorem fill_oldestRemoved (n : Nat) (s : State) :
    fill (oldestRemoved n s) + slotsOf (s.tst.records.take n) = fill s := by
  have h := slotsOf_append (s.tst.records.take n) (s.tst.records.drop n)
  rw [List.take_append_drop] at h
  simp only [fill, egressTail, oldestRemoved, State.setTst_tst]
  omega

/-- R118: in RING, with nothing pinned, the `n` oldest records leave for a group that fits behind them and not before. -/
theorem storeTake_ring {g : List Record} {k n : Nat} {s : State} (hm : modeOf s = .ring)
    (hpin : s.tst.snapshot = none ∨ s.tst.snapshot = some 0) (hb : fill s + reserved s ≤ Config.storeSlots)
    (hn : n ≤ s.tst.records.length) (hg : 0 < slotsOf g)
    (hfit : slotsOf g + fill s + reserved s ≤ Config.storeSlots + slotsOf (s.tst.records.take n))
    (hmin : ∀ j < n, Config.storeSlots + slotsOf (s.tst.records.take j) < slotsOf g + fill s + reserved s) :
    storeTake g k .unbacked s = (.placed, appendGroup g (fill s) (oldestRemoved n s)) := by
  have hfree := le_freeSlots_iff (s := s) hg
  rcases Nat.eq_zero_or_pos n with rfl | h0
  · rw [oldestRemoved_zero]
    simp [storeTake, hm, ringTake, hfree.2 hfit]
  · have hno : ¬ slotsOf g ≤ freeSlots s := by
      have : Config.storeSlots < slotsOf g + fill s + reserved s := hmin 0 h0
      rw [hfree]
      omega
    have hz : ¬ 0 < s.tst.snapshot.getD 0 := by rcases hpin with h | h <;> simp [h]
    have hrem : ringRemove (freeSlots s) (slotsOf g) s.tst.records = (n, s.tst.records.drop n) :=
      ringRemove_drop _ _ _ _ hn (by unfold freeSlots; omega) fun j hj => by
        have := hmin j hj
        unfold freeSlots
        omega
    have hroom : slotsOf g ≤ freeSlots (oldestRemoved n s) := by
      have hfill := fill_oldestRemoved n s
      have hres : reserved (oldestRemoved n s) = reserved s := rfl
      rw [le_freeSlots_iff hg]
      omega
    simp only [storeTake, hm, ringTake, hno, hz, hrem, if_false]
    exact if_pos hroom

/-- R104, R118: the record that RING makes room for. -/
theorem offerEvent_ring {r : Record} {n : Nat} {s : State} (hm : modeOf s = .ring)
    (hpin : s.tst.snapshot = none ∨ s.tst.snapshot = some 0) (hb : fill s + reserved s ≤ Config.storeSlots)
    (hn : n ≤ s.tst.records.length) (hr : 0 < r.length)
    (hfit : (composeGroup r s).flatten.length + fill s + reserved s
      ≤ Config.storeSlots + slotsOf (s.tst.records.take n))
    (hmin : ∀ j < n, Config.storeSlots + slotsOf (s.tst.records.take j)
      < (composeGroup r s).flatten.length + fill s + reserved s) :
    (offerEvent r s).tst.records = s.tst.records.drop n ++ composeGroup r s
      ∧ (offerEvent r s).tst.overwrite.toNat = min 65535 (s.tst.overwrite.toNat + n)
      ∧ (offerEvent r s).tst = { s.tst with
          records := (offerEvent r s).tst.records, overwrite := (offerEvent r s).tst.overwrite }
      ∧ (offerEvent r s).tcu.lossCount = 0 ∧ (offerEvent r s).tcu.syncNeeded = false := by
  rw [flatten_length] at hfit
  simp only [flatten_length] at hmin
  have hs := storeTake_ring (k := r.length) hm hpin hb hn (Nat.lt_of_lt_of_le hr (record_le_group r s)) hfit hmin
  have hu : offerEvent r s = (appendGroup (composeGroup r s) (fill s) (oldestRemoved n s)).setTcu
      (groupPlaced (needsLoss s) (needsSync s) none s.tbs.timestamp s.tcu) := by
    simp [offerEvent, offerRecord, hm, hs, oldestRemoved]
  obtain ⟨hloss, hsync, -⟩ := groupPlaced_clears none s
  rw [hu]
  exact ⟨by simp [oldestRemoved], by simp [oldestRemoved, satAdd_toNat], by simp [oldestRemoved], hloss, hsync⟩

end Sys2Proof.Machine
/-! PROOFS. The bits of every trace record, from bit 63 of its header down (R111, R112). -/
namespace Sys2Proof.Machine

/-! ### Slots joined with `++` -/

theorem classCode_ite (c : TxnClass) : classCode c = if c = .privileged then 1#1 else 0#1 := by cases c <;> rfl

/-- R111: the action set of a STAGE record, ALERT first. -/
theorem recordActions_layout (a : BitVec 7) :
    recordActions a = (BitVec.ofBool (a.getLsbD 0) ++ BitVec.ofBool (a.getLsbD 1) ++ BitVec.ofBool (a.getLsbD 2)
      ++ BitVec.ofBool (a.getLsbD 3) ++ BitVec.ofBool (a.getLsbD 4) ++ BitVec.ofBool (a.getLsbD 5)
      ++ BitVec.ofBool (a.getLsbD 6) : BitVec 7) := by
  simp only [↓append_eq_place, ↓place_append, Nat.reduceAdd]
  rfl

/-- R111: the action set in its place, ALERT in bit 34 and PULSE in bit 28. -/
theorem place_recordActions (a : BitVec 7) :
    place 64 28 (recordActions a) = place 64 34 (BitVec.ofBool (a.getLsbD 0)) ||| place 64 33 (BitVec.ofBool (a.getLsbD 1))
      ||| place 64 32 (BitVec.ofBool (a.getLsbD 2)) ||| place 64 31 (BitVec.ofBool (a.getLsbD 3))
      ||| place 64 30 (BitVec.ofBool (a.getLsbD 4)) ||| place 64 29 (BitVec.ofBool (a.getLsbD 5))
      ||| place 64 28 (BitVec.ofBool (a.getLsbD 6)) := by
  rw [recordActions_layout]
  simp only [↓place_append, Nat.reduceAdd]

/-- R111: the header of every kind of record: the kind code, the timestamp and the fields, each from its highest bit
down: REQUEST, RESPONSE, STAGE, ANOMALY, LINKRESET, LOSS, and MARK or SYNC. -/
theorem header_layouts (k : BitVec 4) (ts : Word) :
    (∀ (r : Request) (w : Bool) (slot : BitVec 7) (delta : BitVec 18), header k ts (requestFields r w slot delta)
      = (k ++ ts.extractLsb' 0 16 ++ r.lenM1 ++ r.initiator ++ (if r.cls = .privileged then 1#1 else 0#1)
        ++ BitVec.ofBool w ++ r.tag ++ slot ++ delta : BitVec 64))
    ∧ (∀ (status : BitVec 3) (w : Bool) (initiator : BitVec 5) (tag : Byte) (slot : BitVec 7) (latency : Half),
      header k ts (place 64 41 status ||| place 64 40 (flag w) ||| place 64 35 initiator ||| place 64 27 tag
        ||| place 64 20 slot ||| place 64 4 latency)
      = (k ++ ts.extractLsb' 0 16 ++ status ++ BitVec.ofBool w ++ initiator ++ tag ++ slot ++ latency
        ++ 0#4 : BitVec 64))
    ∧ (∀ (source dest cause : BitVec 3) (actions : BitVec 7), header k ts (place 64 41 source ||| place 64 38 dest
        ||| place 64 35 cause ||| place 64 28 (recordActions actions))
      = (k ++ ts.extractLsb' 0 16 ++ source ++ dest ++ cause
        ++ BitVec.ofBool (actions.getLsbD 0) ++ BitVec.ofBool (actions.getLsbD 1) ++ BitVec.ofBool (actions.getLsbD 2)
        ++ BitVec.ofBool (actions.getLsbD 3) ++ BitVec.ofBool (actions.getLsbD 4) ++ BitVec.ofBool (actions.getLsbD 5)
        ++ BitVec.ofBool (actions.getLsbD 6) ++ 0#28 : BitVec 64))
    ∧ (∀ (cls : BitVec 3) (slot : BitVec 7) (initiator : BitVec 5) (tag : Byte),
      header k ts (place 64 41 cls ||| place 64 34 slot ||| place 64 29 initiator ||| place 64 21 tag)
      = (k ++ ts.extractLsb' 0 16 ++ cls ++ slot ++ initiator ++ tag ++ 0#21 : BitVec 64))
    ∧ (∀ live orphaned : BitVec 7, header k ts (place 64 37 live ||| place 64 30 orphaned)
      = (k ++ ts.extractLsb' 0 16 ++ live ++ orphaned ++ 0#30 : BitVec 64))
    ∧ (∀ count : Half, header k ts (place 64 28 count) = (k ++ ts.extractLsb' 0 16 ++ count ++ 0#28 : BitVec 64))
    ∧ (∀ value : Word, header k ts (place 64 12 value) = (k ++ ts.extractLsb' 0 16 ++ value ++ 0#12 : BitVec 64)) := by
  refine ⟨?_, ?_, ?_, ?_, ?_, ?_, ?_⟩ <;> intros <;>
    simp only [header, requestFields, place_recordActions, classCode_ite, flag, ↓append_eq_place, ↓place_append,
      zero_place_or, or_zero_place, Nat.reduceAdd, BitVec.or_comm, or_left_comm_bits, BitVec.or_assoc]

/-- R111: the address slot of a REQUEST record. -/
theorem requestAddressSlot_layout (r : Request) (fenced : Bool) :
    requestAddressSlot r fenced = (r.addr ++ r.context ++ BitVec.ofBool fenced ++ 0#15 : BitVec 64) := by
  simp only [requestAddressSlot, flag, ↓append_eq_place, ↓place_append, or_zero_place, Nat.reduceAdd]

/-- R111: the address slot of an ANOMALY record. -/
theorem anomalyAddressSlot_layout (addr : Addr) : place 64 24 addr = (addr ++ 0#24 : BitVec 64) := by
  simp only [↓append_eq_place, or_zero_place, Nat.reduceAdd]

/-! ### The coded fields -/

theorem recordStatus_code {status : RecordStatus} {code : BitVec 3}
    (h : (status, code) ∈ [(RecordStatus.okay, 0#3), (.fault, 1#3), (.fenced, 2#3), (.timeout, 3#3)]) :
    status.code = code := by
  simp only [List.mem_cons, List.not_mem_nil, Prod.mk.injEq, or_false] at h
  rcases h with ⟨rfl, rfl⟩ | ⟨rfl, rfl⟩ | ⟨rfl, rfl⟩ | ⟨rfl, rfl⟩ <;> rfl

theorem stageCause_code {cause : StageCause} {code : BitVec 3}
    (h : (cause, code) ∈ [(StageCause.exit0, 0#3), (.exit1, 1#3), (.dwell, 2#3), (.arm, 3#3), (.disarm, 4#3)]) :
    cause.code = code := by
  simp only [List.mem_cons, List.not_mem_nil, Prod.mk.injEq, or_false] at h
  rcases h with ⟨rfl, rfl⟩ | ⟨rfl, rfl⟩ | ⟨rfl, rfl⟩ | ⟨rfl, rfl⟩ | ⟨rfl, rfl⟩ <;> rfl

theorem anomalyClass_code {cls : AnomalyClass} {code : BitVec 3}
    (h : (cls, code) ∈ [(AnomalyClass.malformedRequest, 0#3), (.duplicateTag, 1#3), (.unsolicitedResponse, 2#3),
      (.lateResponse, 3#3), (.malformedResponse, 4#3), (.timeout, 5#3)]) :
    BitVec.ofNat 3 cls.code.val = code := by
  simp only [List.mem_cons, List.not_mem_nil, Prod.mk.injEq, or_false] at h
  rcases h with ⟨rfl, rfl⟩ | ⟨rfl, rfl⟩ | ⟨rfl, rfl⟩ | ⟨rfl, rfl⟩ | ⟨rfl, rfl⟩ | ⟨rfl, rfl⟩ <;> rfl

/-! ### The records -/

/-- R112: the data slots are there exactly when the data flag is set, and then hold the first beat. -/
theorem requestData_eq {r : Request} {w : Bool} {data : List Slot64} (hno : w = false → data = [])
    (hyes : w = true → ∃ b rest, r.beats = b :: rest ∧ data = [b.data.extractLsb' 0 64, b.data.extractLsb' 64 64]) :
    requestData r w = data := by
  cases w with
  | false => exact (hno rfl).symm
  | true =>
    obtain ⟨b, rest, hb, rfl⟩ := hyes rfl
    simp [requestData, dataSlots, hb]

/-- R111, R112: the slots of a REQUEST record in either form. -/
theorem requestRecord_layouts (r : Request) (w f : Bool) (slot : BitVec 7) (delta : BitVec 18) (ts : Word) :
    requestDelta r w slot delta ts =
      ((if r.kind = .read then 0x1#4 else 0x3#4) ++ ts.extractLsb' 0 16 ++ r.lenM1 ++ r.initiator
        ++ (if r.cls = .privileged then 1#1 else 0#1) ++ BitVec.ofBool w ++ r.tag ++ slot ++ delta : BitVec 64)
      :: requestData r w
    ∧ requestFull r w f slot ts =
      ((if r.kind = .read then 0x2#4 else 0x4#4) ++ ts.extractLsb' 0 16 ++ r.lenM1 ++ r.initiator
        ++ (if r.cls = .privileged then 1#1 else 0#1) ++ BitVec.ofBool w ++ r.tag ++ slot ++ 0#18 : BitVec 64)
      :: (r.addr ++ r.context ++ BitVec.ofBool f ++ 0#15 : BitVec 64) :: requestData r w := by
  have hfields := fun k => (header_layouts k ts).1 r w slot
  rw [← hfields, ← hfields, ← requestAddressSlot_layout]
  exact ⟨rfl, rfl⟩

/-- R111, R112: the slots of a RESPONSE record. -/
theorem responseRecord_layout (status : RecordStatus) (initiator : BitVec 5) (tag : Byte) (slot : BitVec 7)
    (latency : Half) (data : Option BeatData) (ts : Word) :
    responseRecord status initiator tag slot latency data ts =
      (0x5#4 ++ ts.extractLsb' 0 16 ++ status.code ++ BitVec.ofBool data.isSome ++ initiator ++ tag ++ slot ++ latency
        ++ 0#4 : BitVec 64) :: data.elim [] fun d => [d.extractLsb' 0 64, d.extractLsb' 64 64] := by
  obtain ⟨-, hfields, -⟩ := header_layouts 0x5#4 ts
  rw [← hfields]
  cases data <;> rfl

/-- R111: the slot of a STAGE record. -/
theorem stageRecord_layout (source dest : BitVec 3) (cause : StageCause) (actions : BitVec 7) (ts : Word) :
    stageRecord source dest cause actions ts =
      [(0x6#4 ++ ts.extractLsb' 0 16 ++ source ++ dest ++ cause.code
        ++ BitVec.ofBool (actions.getLsbD 0) ++ BitVec.ofBool (actions.getLsbD 1) ++ BitVec.ofBool (actions.getLsbD 2)
        ++ BitVec.ofBool (actions.getLsbD 3) ++ BitVec.ofBool (actions.getLsbD 4) ++ BitVec.ofBool (actions.getLsbD 5)
        ++ BitVec.ofBool (actions.getLsbD 6) ++ 0#28 : BitVec 64)] := by
  obtain ⟨-, -, hfields, -⟩ := header_layouts 0x6#4 ts
  rw [← hfields]
  rfl

/-- R111: the slots of an ANOMALY record. -/
theorem anomalyRecord_layout (a : Anomaly) (ts : Word) :
    anomalyRecord a ts =
      [(0x7#4 ++ ts.extractLsb' 0 16 ++ BitVec.ofNat 3 a.cls.code.val ++ a.slot ++ a.initiator ++ a.tag
        ++ 0#21 : BitVec 64), (a.addr ++ 0#24 : BitVec 64)] := by
  obtain ⟨-, -, -, hfields, -⟩ := header_layouts 0x7#4 ts
  rw [← hfields, ← anomalyAddressSlot_layout]
  rfl

/-- R111: the slot of a LINKRESET record. -/
theorem linkResetRecord_layout (live orphaned : Nat) (ts : Word) : linkResetRecord live orphaned ts =
    [(0xB#4 ++ ts.extractLsb' 0 16 ++ BitVec.ofNat 7 live ++ BitVec.ofNat 7 orphaned ++ 0#30 : BitVec 64)] := by
  obtain ⟨-, -, -, -, hfields, -⟩ := header_layouts 0xB#4 ts
  rw [← hfields]
  rfl

/-- R111: the slots of the LOSS, the MARK and the SYNC record. -/
theorem lossMarkSync_layouts (count : Half) (value ts : Word) :
    lossRecord count ts = [(0x8#4 ++ ts.extractLsb' 0 16 ++ count ++ 0#28 : BitVec 64)]
    ∧ markRecord value ts = [(0x9#4 ++ ts.extractLsb' 0 16 ++ value ++ 0#12 : BitVec 64)]
    ∧ syncRecord ts = [(0xA#4 ++ ts.extractLsb' 0 16 ++ ts ++ 0#12 : BitVec 64)] := by
  obtain ⟨-, -, -, -, -, hcount, -⟩ := header_layouts 0x8#4 ts
  obtain ⟨-, -, -, -, -, -, hmark⟩ := header_layouts 0x9#4 ts
  obtain ⟨-, -, -, -, -, -, hsync⟩ := header_layouts 0xA#4 ts
  rw [← hcount, ← hmark, ← hsync]
  exact ⟨rfl, rfl, rfl⟩

/-- R103: the group: a LOSS record when losses are pending, a SYNC record when one is needed, and the record. -/
theorem composeGroup_layout (r : Record) (s : State) : composeGroup r s =
    (if s.tcu.lossCount = 0 then []
      else [[(0x8#4 ++ s.tbs.timestamp.extractLsb' 0 16 ++ s.tcu.lossCount ++ 0#28 : BitVec 64)]])
    ++ (if s.tcu.syncNeeded = true ∨ s.tbs.timestamp.extractLsb' 16 16 ≠ s.tcu.lastSyncHigh then
        [[(0xA#4 ++ s.tbs.timestamp.extractLsb' 0 16 ++ s.tbs.timestamp ++ 0#12 : BitVec 64)]] else [])
    ++ [r] := by
  obtain ⟨hloss, -, hsync⟩ := lossMarkSync_layouts s.tcu.lossCount 0 s.tbs.timestamp
  simp only [composeGroup, needsLoss, needsSync, hloss, hsync, Bool.or_eq_true, decide_eq_true_eq, ne_eq, ite_not]

end Sys2Proof.Machine
/-! PROOFS. MARK (R102, R194) and the REQUEST record at the downstream take (R96, R105, R123, R170). -/
namespace Sys2Proof.Machine

/-! ### MARK (R102, R104, R117 to R121, R126) -/

theorem exec_mark {value : Word} {s : State} (hb : BetweenFrames s) : exec (.mark value) s
    = .next ((offerEvent (markRecord value s.tbs.timestamp) s).setMgp (Mgp.idle .ok)) :=
  whenPowered_endFrame (take := fun t => (.ok, placeMark value t)) hb rfl (by simp)

/-- R126: an event record that fits raises THRESHOLD as the fill crosses it. -/
theorem offerEvent_fits_alc {r : Record} {s : State} (h : FitsAsItIs s (composeGroup r s).flatten.length) :
    (offerEvent r s).alc = { s.alc with pending := s.alc.pending |||
      (if fill s < max 1 (min 4096 s.tst.threshold.toNat)
          ∧ max 1 (min 4096 s.tst.threshold.toNat) ≤ fill s + (composeGroup r s).flatten.length then
        0b000100 else 0) } := by
  rw [flatten_length] at h ⊢
  rw [offerEvent_fits h, State.setTcu_alc, appendGroup_alc]

/-- R120: what an event record leaves that STOP drops. -/
theorem offerEvent_stopped {r : Record} {s : State} (hm : modeOf s = .stop)
    (h : s.tst.stopped = true ∨ Config.storeSlots < (composeGroup r s).flatten.length + fill s + reserved s)
    (hr : 0 < r.length) : offerEvent r s = (s.setTst { s.tst with stopped := true }).setTcu
      { s.tcu with syncNeeded := true, refValid := false } := by
  rw [offerEvent, offerRecord_stopped hm h hr]

/-- R121: what an event record leaves that a STREAM mode drops. -/
theorem offerEvent_streamFull {r : Record} {s : State} (hm : modeOf s = .streamDrop ∨ modeOf s = .streamStall)
    (h : Config.storeSlots < (composeGroup r s).flatten.length + claim s + fill s + reserved s) (hr : 0 < r.length) :
    offerEvent r s = raise .loss (s.setTcu
      { s.tcu with lossCount := satInc s.tcu.lossCount, syncNeeded := true, refValid := false }) := by
  rw [flatten_length] at h
  have hoff : modeOf s ≠ .off := by rcases hm with hm | hm <;> rw [hm] <;> decide
  rw [offerEvent, offerRecord_counted hoff
    (storeTake_streamFull hm (Nat.lt_of_lt_of_le hr (record_le_group r s)) h)]

/-- Settles O48: the layouts of the records, and for MARK's record, offered without a claim, one outcome of the offer
for each mode and for each answer to whether the store has room. -/
theorem markPlacesItsRecord : Obligations.MarkPlacesItsRecord := by
  refine ⟨fun value s hb hm => ?off, composeGroup_layout, fun r w f slot delta ts data hno hyes => ?request,
    fun status code initiator tag slot latency d ts hcode => ?response,
    fun source dest code cause actions ts hcode => ?stage, fun a code ts hcode => ?anomaly, linkResetRecord_layout,
    fun value s r k hb hm hr hk => ?mark⟩
  case off => rw [exec_mark hb, offerEvent_off hm]; rfl
  case request =>
    rw [← requestData_eq hno hyes]
    exact requestRecord_layouts r w f slot delta ts
  case response =>
    rw [← recordStatus_code hcode]
    exact ⟨responseRecord_layout .., responseRecord_layout ..⟩
  case stage =>
    rw [← stageCause_code hcode]
    exact stageRecord_layout ..
  case anomaly =>
    rw [← anomalyClass_code hcode]
    exact anomalyRecord_layout ..
  case mark =>
    obtain ⟨-, hmark, -⟩ := lossMarkSync_layouts 0 value s.tbs.timestamp
    have hlen : 0 < r.length := by rw [hr]; exact Nat.one_pos
    rw [← hmark] at hr
    subst hk
    rw [exec_mark hb, ← hr]
    refine ⟨_, rfl, by simp, by simp, by simp, by simp, by simp, by simp, by simp, by simp, by simp, by simp, by simp,
      fun hf => ⟨(offerEvent_stored hf).1, offerEvent_fits_alc hf⟩, fun n hring hpin hb hn hfit hmin => ?ring,
      fun n hring hpin h0 hfull => ?pinned, fun hstop hfull => ?stop, fun hstream hfull => ?stream⟩
    case ring => exact offerEvent_ring hring hpin hb hn hlen hfit hmin
    case pinned => exact offerEvent_pinned hring hpin h0 hlen hfull
    case stop => rw [offerEvent_stopped hstop hfull hlen]; exact ⟨rfl, rfl, rfl⟩
    case stream => rw [offerEvent_streamFull hstream hfull hlen]; exact ⟨rfl, rfl, rfl⟩

/-! ### The REQUEST record at the downstream take (R96, R105, R123, R170) -/

theorem deltaFits_iff (d : Int) : deltaFits d = true ↔ -131072 ≤ d ∧ d ≤ 131071 := decide_eq_true_iff

/-- R105: DELTA form needs a valid reference, no SYNC in the group, the reference's context, an aligned address and a
delta that fits. -/
theorem takesDelta_iff {r : Request} {s : State} : takesDelta r s = true ↔
    s.tcu.refValid = true ∧ s.tcu.syncNeeded = false ∧ s.tbs.timestamp.extractLsb' 16 16 = s.tcu.lastSyncHigh
      ∧ r.context = s.tcu.refContext ∧ r.addr.toNat % 16 = 0
      ∧ -131072 ≤ addressDelta r.addr s.tcu.refAddr ∧ addressDelta r.addr s.tcu.refAddr ≤ 131071 := by
  simp only [takesDelta, needsSync, deltaFits_iff, Bool.and_eq_true, decide_eq_true_eq, Bool.not_eq_true',
    Bool.or_eq_false_iff, decide_eq_false_iff_not, ne_eq, Decidable.not_not, and_assoc]

/-- R96: the offer of the REQUEST record of the capture in hand. -/
def requestOffer (r : Request) (n : Fin 64) (c : Capture) (s : State) : Bool × State :=
  offerRecord (requestRecord r c.withData n s) (.claim c.responseReservation) (some (r.addr, r.context)) s

@[simp] theorem requestOffer_ott (r : Request) (n : Fin 64) (c : Capture) (s : State) :
    (requestOffer r n c s).2.ott = s.ott := offerRecord_claim_frame ..

/-- R96: the outcome of the offer decides whether the entry is traced; the capture in hand ends with it. -/
theorem placeRequest_eq {r : Request} {n : Fin 64} {c : Capture} {s : State} (hc : s.tcu.capture = some c) :
    placeRequest r n s = if (requestOffer r n c s).1 = true then
      setEntry n { entry s n with traced := true, reservation := c.responseReservation }
        (setCapture none (requestOffer r n c s).2)
    else setCapture none (requestOffer r n c s).2 := by
  have he : entry (setCapture none (requestOffer r n c s).2) n = entry s n := entry_congr (by simp) n
  rw [← he]
  simp only [placeRequest, hc]
  rfl

/-- R5: the state in which the take has written the selected slot. -/
def allocatedAt (t : RqpTxn) (n : Fin 64) (s : State) : State :=
  setEntry n (allocated t.req s.tbs.timestamp (entry s n)) s

@[simp] theorem entry_allocatedAt (t : RqpTxn) (n : Fin 64) (s : State) :
    entry (allocatedAt t n s) n = allocated t.req s.tbs.timestamp (entry s n) := entry_setEntry_self ..

@[simp] theorem modeOf_allocatedAt (t : RqpTxn) (n : Fin 64) (s : State) : modeOf (allocatedAt t n s) = modeOf s := rfl

/-- R122: the allocation of a slot without a reservation leaves the reserved count as it is. -/
theorem reserved_allocatedAt {t : RqpTxn} {n : Fin 64} {s : State} (h : (entry s n).reservation = 0) :
    reserved (allocatedAt t n s) = reserved s := by
  have := reserved_setEntry n (allocated t.req s.tbs.timestamp (entry s n)) s
  rwa [h] at this

/-- R117: such an allocation leaves the room of the store as it is. -/
theorem fitsAsItIs_allocatedAt {t : RqpTxn} {n : Fin 64} {s : State} {k : Nat} (h : (entry s n).reservation = 0) :
    FitsAsItIs (allocatedAt t n s) k ↔ FitsAsItIs s k := by
  unfold FitsAsItIs
  rw [reserved_allocatedAt h]
  rfl

/-- R96, R170: the take of a captured request: the slot written, the record offered, and the entry marked as the offer
came out. -/
theorem takenDown_captured {s : State} {t : RqpTxn} {n : Fin 64} {c : Capture} {o : Bool × State}
    (hc : s.tcu.capture = some c) (ho : requestOffer t.req n c (allocatedAt t n s) = o) :
    takenDown t n s = setTxn none (setEntry n
      { allocated t.req s.tbs.timestamp (entry s n) with
        traced := o.1, reservation := if o.1 = true then c.responseReservation else 0 } (setCapture none o.2)) := by
  have hself : entry (setCapture none o.2) n = allocated t.req s.tbs.timestamp (entry s n) := by
    rw [← ho, entry_congr (t := setCapture none _) (requestOffer_ott ..), entry_allocatedAt]
  show setTxn none (placeRequest t.req n (allocatedAt t n s)) = _
  rw [placeRequest_eq (s := allocatedAt t n s) hc, ho]
  cases h : o.1 with
  | false => exact congrArg (setTxn none) ((setEntry_same n (setCapture none o.2)).symm.trans (by rw [hself]; rfl))
  | true => rw [entry_allocatedAt]; rfl

/-- R5, R96: the entry that the take leaves. -/
theorem entry_takenDown_captured {s : State} {t : RqpTxn} {n : Fin 64} {c : Capture} {o : Bool × State}
    (hc : s.tcu.capture = some c) (ho : requestOffer t.req n c (allocatedAt t n s) = o) :
    entry (takenDown t n s) n = { allocated t.req s.tbs.timestamp (entry s n) with
      traced := o.1, reservation := if o.1 = true then c.responseReservation else 0 } := by
  rw [takenDown_captured hc ho, entry_setTxn, entry_setEntry_self]

/-- R96: the capture in hand ends. -/
theorem takenDown_capture_none {s : State} {t : RqpTxn} {n : Fin 64} {c : Capture} (hc : s.tcu.capture = some c) :
    (takenDown t n s).tcu.capture = none := by
  rw [takenDown_captured hc rfl]
  rfl

/-- R122: the response reservation of a placed record joins the reserved count. -/
theorem reserved_takenDown_captured {s : State} {t : RqpTxn} {n : Fin 64} {c : Capture} {o : Bool × State}
    (hc : s.tcu.capture = some c) (ho : requestOffer t.req n c (allocatedAt t n s) = o)
    (hr : (entry s n).reservation = 0) :
    reserved (takenDown t n s) = reserved s + if o.1 = true then c.responseReservation else 0 := by
  have hott : (setCapture none o.2).ott = (allocatedAt t n s).ott := by rw [← ho]; exact requestOffer_ott ..
  have h := reserved_setEntry n { allocated t.req s.tbs.timestamp (entry s n) with
    traced := o.1, reservation := if o.1 = true then c.responseReservation else 0 } (setCapture none o.2)
  rw [reserved_congr hott, reserved_allocatedAt hr, entry_congr hott, entry_allocatedAt] at h
  rw [takenDown_captured hc ho]
  exact h

/-- R170: under REPORT nothing is claimed behind the take. -/
theorem exec_downstreamRequestTake_captured {s : State} {t : RqpTxn} {n : Fin 64} {c : Capture} (hup : LinksUp s)
    (hpol : s.ott.policy = .report) (ht : s.rqp.inProcess = some t) (hp : t.phase = .offered n)
    (hc : s.tcu.capture = some c) : exec .downstreamRequestTake s = .next (takenDown t n s) := by
  have hkept : (takenDown t n s).ott.policy = .report := by
    rw [takenDown_captured hc rfl]
    simpa [allocatedAt] using hpol
  rw [exec_downstreamRequestTake hup, takeDownstream_eq ht hp, makeClaims_none (.inl hkept)]

/-- R104: the offer of the REQUEST record when its group is placed. -/
def requestPlaced (t : RqpTxn) (n : Fin 64) (c : Capture) (s : State) : State :=
  (appendGroup (composeGroup (requestRecord t.req c.withData n s) s) (fill s) (allocatedAt t n s)).setTcu
    (groupPlaced (needsLoss s) (needsSync s) (some (t.req.addr, t.req.context)) s.tbs.timestamp s.tcu)

/-- R96, R104, R106: with its group placed, the entry is traced with the response reservation, the record stands in the
store, and its address and context are the reference. -/
theorem takenDown_placed {s : State} {t : RqpTxn} {n : Fin 64} {c : Capture} (hc : s.tcu.capture = some c)
    (ho : requestOffer t.req n c (allocatedAt t n s) = (true, requestPlaced t n c s)) :
    (entry (takenDown t n s) n).traced = true
      ∧ RecordStored (requestRecord t.req c.withData n s) s (takenDown t n s)
      ∧ (takenDown t n s).tcu.refValid = true ∧ (takenDown t n s).tcu.refAddr = t.req.addr
      ∧ (takenDown t n s).tcu.refContext = t.req.context := by
  obtain ⟨hloss, hsync, hhigh⟩ := groupPlaced_clears (some (t.req.addr, t.req.context)) s
  rw [entry_takenDown_captured hc ho, takenDown_captured hc ho]
  exact ⟨rfl, ⟨by simp [requestPlaced, allocatedAt], hloss, hsync, hhigh⟩, rfl, rfl, rfl⟩

/-- R95, R123: the room of a granted claim holds the group and the response reservation. -/
theorem requestOffer_granted {s : State} {t : RqpTxn} {n : Fin 64} {c : Capture} (hm : modeOf s = .streamStall)
    (hr : (entry s n).reservation = 0) (hsize : c.claimSize = 2 + (if c.withData then 4 else 2) + c.responseReservation)
    (hfit : fill s + reserved s + c.claimSize ≤ Config.storeSlots) :
    requestOffer t.req n c (allocatedAt t n s) = (true, requestPlaced t n c s) := by
  have hlen := requestRecord_length t.req c.withData n s
  have hgroup := group_le (requestRecord t.req c.withData n s) s
  refine offerRecord_claim_fits (s := allocatedAt t n s) hm ?_
  show slotsOf (composeGroup (requestRecord t.req c.withData n s) s) + c.responseReservation
    ≤ Config.storeSlots - (fill s + reserved (allocatedAt t n s))
  rw [reserved_allocatedAt hr]
  omega

/-- R94, R117: in the modes without claims the group that fits is placed. -/
theorem requestOffer_fits {s : State} {t : RqpTxn} {n : Fin 64} {c : Capture} (hm : modeOf s ≠ .streamStall)
    (hr : (entry s n).reservation = 0)
    (hfit : FitsAsItIs s (composeGroup (requestRecord t.req c.withData n s) s).flatten.length) :
    requestOffer t.req n c (allocatedAt t n s) = (true, requestPlaced t n c s) := by
  rw [flatten_length] at hfit
  rw [requestOffer, offerRecord_plain (s := allocatedAt t n s) hm]
  exact offerRecord_fits ((fitsAsItIs_allocatedAt hr).2 hfit)

theorem requestRecord_nonempty (r : Request) (w : Bool) (n : Fin 64) (s : State) :
    0 < (requestRecord r w n s).length := by
  unfold requestRecord
  split <;> exact Nat.succ_pos _

/-- R104, R121: in STREAM_DROP the group without room is dropped and counted. -/
theorem requestOffer_dropped {s : State} {t : RqpTxn} {n : Fin 64} {c : Capture} (hm : modeOf s = .streamDrop)
    (hr : (entry s n).reservation = 0) (hfull : Config.storeSlots
      < (composeGroup (requestRecord t.req c.withData n s) s).flatten.length + fill s + reserved s) :
    requestOffer t.req n c (allocatedAt t n s) = (false, raise .loss ((allocatedAt t n s).setTcu
      { s.tcu with lossCount := satInc s.tcu.lossCount, syncNeeded := true, refValid := false })) := by
  have hlen := record_le_group (requestRecord t.req c.withData n s) s
  have hpos := requestRecord_nonempty t.req c.withData n s
  rw [requestOffer, offerRecord_plain (s := allocatedAt t n s) (by simp [hm])]
  refine offerRecord_counted (s := allocatedAt t n s) (by simp [hm]) ?_
  refine storeTake_streamFull (s := allocatedAt t n s) (.inl hm) (Nat.lt_of_lt_of_le hpos hlen) ?_
  rw [flatten_length] at hfull
  rw [reserved_allocatedAt hr]
  show _ < slotsOf (composeGroup (requestRecord t.req c.withData n s) s) + claim s + fill s + _
  omega

/-- R104, R120: in STOP the group is dropped uncounted when the store is stopped or has no room. -/
theorem requestOffer_stopped {s : State} {t : RqpTxn} {n : Fin 64} {c : Capture} (hm : modeOf s = .stop)
    (hr : (entry s n).reservation = 0) (hfull : s.tst.stopped = true ∨ Config.storeSlots
      < (composeGroup (requestRecord t.req c.withData n s) s).flatten.length + fill s + reserved s) :
    requestOffer t.req n c (allocatedAt t n s) = (false, ((allocatedAt t n s).setTst
      { s.tst with stopped := true }).setTcu { s.tcu with syncNeeded := true, refValid := false }) := by
  rw [requestOffer, offerRecord_plain (s := allocatedAt t n s) (by simp [hm])]
  refine offerRecord_stopped (s := allocatedAt t n s) hm ?_ (requestRecord_nonempty ..)
  rw [reserved_allocatedAt hr]
  exact hfull

/-- Settles O12: the take is the allocation and one offer of the REQUEST record, whose outcome the claim, the mode and the
room decide; the form of the record is `takesDelta`. -/
theorem aGrantedClaimHoldsTheRequestRecord : Obligations.AGrantedClaimHoldsTheRequestRecord := by
  refine ⟨fun s t n c hup hpol ht hp hr hm hc _ hsize hfit => ?granted,
    fun s t n c hup hpol ht hp hr hm hc _ hres => ?plain, fun r w n s d hd => ?form⟩
  case granted =>
    have ho := requestOffer_granted (t := t) hm hr hsize hfit
    obtain ⟨htraced, ⟨hstore, hloss, -⟩, href⟩ := takenDown_placed hc ho
    have hentry := entry_takenDown_captured hc ho
    have hcap : (takenDown t n s).tcu.capture = none := takenDown_capture_none hc
    exact ⟨_, exec_downstreamRequestTake_captured hup hpol ht hp hc, by rw [hentry]; rfl, htraced, by rw [hentry]; rfl,
      by rw [hstore], reserved_takenDown_captured hc ho hr, by rw [claim, hcap], hcap, hloss, href⟩
  case plain =>
    have hentry := entry_takenDown_captured (t := t) (n := n) hc rfl
    refine ⟨_, exec_downstreamRequestTake_captured hup hpol ht hp hc, by rw [hentry]; rfl, by simp [hentry, hres],
      takenDown_capture_none hc, rfl, fun hfit => takenDown_placed hc (requestOffer_fits hm hr hfit),
      fun hdrop hfull => ?_, fun hstop hfull => ?_⟩
    · have ho := requestOffer_dropped hdrop hr hfull
      rw [entry_takenDown_captured hc ho, takenDown_captured hc ho]
      exact ⟨rfl, rfl, rfl, rfl, rfl, (raise_pending .loss s 3).trans (Bool.or_true _)⟩
    · have ho := requestOffer_stopped hstop hr hfull
      rw [entry_takenDown_captured hc ho, takenDown_captured hc ho]
      exact ⟨rfl, rfl, rfl, rfl, rfl, rfl⟩
  case form =>
    subst hd
    unfold requestRecord
    simp only [takesDelta_iff]
    rfl

end Sys2Proof.Machine
/-! PROOFS. The egress port, the TRACE_READ frame and the mode write (R114, R123, R128, R130, R131, R133, R135). -/
namespace Sys2Proof.Machine

/-! ### Transfers on the egress port (R133, R135) -/

theorem exec_egressTransfer {s : State} (h : Powered s) : exec .egressTransfer s = .next (transfer s) :=
  whenPowered_up h

theorem exec_egressRecordBegin {s : State} (h : Powered s) : exec .egressRecordBegin s = .next (beginRecord s) :=
  whenPowered_up h

theorem exec_egressSlotFreed {s : State} (h : Powered s) : exec .egressSlotFreed s = .next (freeSlot s) :=
  whenPowered_up h

theorem transfer_none {s : State} (h : s.tst.tx = none) : transfer s = beginRecord s := by simp only [transfer, h]

theorem transfer_passes {s : State} {x : Transmission} (h : s.tst.tx = some x) (hb : x.bytePos ≠ 7) :
    transfer s = s.setTst { s.tst with tx := some { x with bytePos := x.bytePos + 1 } } := by
  simp only [transfer, h, if_neg hb]

theorem transfer_frees {s : State} {x : Transmission} (h : s.tst.tx = some x) (hb : x.bytePos = 7) :
    transfer s = freeSlot s := by
  simp only [transfer, h, if_pos hb]

/-- R133: in a STREAM mode the oldest record goes into transmission, its first byte passed. -/
theorem beginRecord_begins {s : State} {r : Record} {rest : List Record} (h : s.tst.tx = none)
    (hr : s.tst.records = r :: rest) (hm : modeOf s = .streamStall ∨ modeOf s = .streamDrop) :
    beginRecord s
      = s.setTst { s.tst with records := rest, tx := some { record := r, slotPos := 0, bytePos := 1 } } := by
  simp only [beginRecord, h, hr, streaming, decide_eq_true hm, if_true]

/-- R133: with no record to send, or outside the STREAM modes, none begins. -/
theorem beginRecord_idles {s : State}
    (h : s.tst.records = [] ∨ (modeOf s ≠ .streamStall ∧ modeOf s ≠ .streamDrop)) : beginRecord s = s := by
  unfold beginRecord
  split
  case h_1 r rest _ hr =>
    rcases h with hnil | hmode
    · exact absurd (hr.symm.trans hnil) (List.cons_ne_nil r rest)
    · exact if_neg (by simpa [streaming] using hmode)
  case h_2 => rfl

/-- Settles O30: `transfer` with a record in transmission, with one to begin, and with neither. -/
theorem aTransferPassesOneByte : Obligations.ATransferPassesOneByte := by
  refine fun s hp => ⟨fun x hx hb => ?passes, fun r rest hx hr hm => ?begins, fun hx h => ?idles⟩
  case passes =>
    rw [exec_egressTransfer hp, transfer_passes hx hb]
    rfl
  case begins =>
    rw [exec_egressTransfer hp, exec_egressRecordBegin hp, transfer_none hx, beginRecord_begins hx hr hm]
    exact ⟨rfl, rfl⟩
  case idles => rw [exec_egressTransfer hp, transfer_none hx, beginRecord_idles h]

/-- R135: what is in transmission once the eighth byte of the current slot has passed. -/
def Transmission.slotFreed (x : Transmission) : Option Transmission :=
  if x.slotPos + 1 = x.record.length then none else some { x with slotPos := x.slotPos + 1, bytePos := 0 }

/-- R135: the slot freed, before room wait is settled. -/
def slotFreed (x : Transmission) (s : State) : State := s.setTst { s.tst with tx := x.slotFreed }

theorem freeSlot_eq {s : State} {x : Transmission} (h : s.tst.tx = some x) (hx : x.slotPos < x.record.length) :
    freeSlot s = settleRoom (slotFreed x s) := by
  have hend : x.slotFreed
      = if x.slotPos + 1 < x.record.length then some { x with slotPos := x.slotPos + 1, bytePos := 0 } else none := by
    unfold Transmission.slotFreed
    split
    · rw [if_neg (by omega)]
    · rw [if_pos (by omega)]
  simp only [freeSlot, h, slotFreed, hend]

/-- R115, R135: a freed slot leaves the egress tail. -/
theorem fill_slotFreed {s : State} {x : Transmission} (h : s.tst.tx = some x) (hx : x.slotPos < x.record.length) :
    fill (slotFreed x s) + 1 = fill s := by
  by_cases hlast : x.slotPos + 1 = x.record.length
  · have : x.slotFreed = none := if_pos hlast
    simp only [fill, egressTail, slotFreed, State.setTst_tst, this, h]
    omega
  · have : x.slotFreed = some { x with slotPos := x.slotPos + 1, bytePos := 0 } := if_neg hlast
    simp only [fill, egressTail, slotFreed, State.setTst_tst, this, h]
    omega

/-- Settles O31: the freed slot lowers the fill by 1, and `settleRoom` either finds no request waiting or grants its
claim in the room that now is there. -/
theorem theEighthByteFreesTheSlot : Obligations.TheEighthByteFreesTheSlot := by
  rintro s x tst hp hx hpos rfl
  have hfill := fill_slotFreed hx hpos
  rw [exec_egressSlotFreed hp, freeSlot_eq hx hpos]
  refine ⟨fun hnone => ?stays, fun t c n ht hroom hheld hc hg h0 hn hfits => ?grants⟩
  case stays =>
    rw [settleRoom_same (s := slotFreed x s) hnone]
    refine ⟨_, rfl, rfl, hfill, fun hb => ?_⟩
    rw [exec_egressTransfer hp, transfer_frees hx hb, freeSlot_eq hx hpos, settleRoom_same (s := slotFreed x s) hnone]
  case grants =>
    have hreserved : reserved (slotFreed x s) = reserved s := reserved_congr rfl
    have hfree : c.claimSize ≤ freeSlots (slotFreed x s) := (le_freeSlots_iff h0).2 (by omega)
    rw [settleRoom_grants (s := slotFreed x s) ht hroom hheld hc hg h0 hfree hn]
    rfl

/-! ### TRACE_READ (R130, R192) -/

theorem slotsOf_cons (r : Record) (rs : List Record) : slotsOf (r :: rs) = r.length + slotsOf rs := rfl

/-- R130: the snapshot holds the oldest records that fit the room, and no further one would fit. -/
theorem snapshotCount_spec (room : Nat) (rs : List Record) :
    snapshotCount room rs ≤ rs.length ∧ slotsOf (rs.take (snapshotCount room rs)) ≤ room
      ∧ (snapshotCount room rs < rs.length → room < slotsOf (rs.take (snapshotCount room rs + 1))) := by
  induction rs generalizing room with
  | nil => exact ⟨Nat.le_refl 0, Nat.zero_le room, fun h => absurd h (Nat.lt_irrefl 0)⟩
  | cons r rs ih =>
    by_cases hr : r.length ≤ room
    · obtain ⟨hle, hfits, hmax⟩ := ih (room - r.length)
      simp only [snapshotCount, if_pos hr, List.take_succ_cons, slotsOf_cons, List.length_cons]
      exact ⟨by omega, by omega, fun h => by have := hmax (by omega); omega⟩
    · simp only [snapshotCount, if_neg hr, Nat.zero_add, List.take_zero, List.take_succ_cons, slotsOf_cons]
      exact ⟨Nat.zero_le _, Nat.zero_le _, fun _ => by omega⟩

/-- R130: the status reads the mode, the count and the record sequence. -/
theorem traceReadStatus_eq (count : Half) (s : State) : traceReadStatus count s =
    (if modeOf s ≠ .ring ∧ modeOf s ≠ .stop then .wrongMode
      else if count.toNat < 1 ∨ 512 < count.toNat then .badIndex
      else if s.tst.records = [] then .empty
      else .ok) := by
  simp only [traceReadStatus, Config.traceReadMax, Nat.lt_one_iff, List.isEmpty_iff]

theorem takeTraceRead_ok {count : Half} {s : State} (h : traceReadStatus count s = .ok) :
    takeTraceRead count s = fixRead .ok
      (some (traceReadData (s.tst.records.take (snapshotCount count.toNat s.tst.records))))
      (s.setTst { s.tst with snapshot := some (snapshotCount count.toNat s.tst.records) }) := by
  rw [takeTraceRead, if_pos h]

theorem takeTraceRead_refused {count : Half} {s : State} (h : traceReadStatus count s ≠ .ok) :
    takeTraceRead count s = fixRead (traceReadStatus count s) (some [0, 0]) s := by
  rw [takeTraceRead, if_neg h]
  rfl

/-- R184: the header received, before the command is taken. -/
def headerReceived (f : List Byte) (s : State) : State :=
  (s.setPins { s.pins with cs := true }).setMgp
    { s.mgp with frameState := .header, received := f, bytePos := BitVec.ofNat 16 f.length, bitPos := 0, shift := 0 }

theorem exec_traceRead {count : Half} {s : State} (hb : BetweenFrames s) :
    exec (.traceRead count) s = .next (takeTraceRead count (headerReceived (traceReadBytes count) s)) :=
  (whenPowered_up (powered_of_between hb)).trans (congrArg _ (sendHeader_between hb))

/-- Settles O38: the status is that of the state before the header, and the snapshot is `snapshotCount` of it. -/
theorem traceReadFixesTheOldestRecords : Obligations.TraceReadFixesTheOldestRecords := by
  intro count s hb
  refine ⟨_, exec_traceRead hb, ?_⟩
  rw [← traceReadStatus_eq]
  have hstatus : traceReadStatus count (headerReceived (traceReadBytes count) s) = traceReadStatus count s := rfl
  by_cases h : traceReadStatus count s = .ok
  · obtain ⟨hle, hfits, hmax⟩ := snapshotCount_spec count.toNat s.tst.records
    rw [takeTraceRead_ok (hstatus.trans h)]
    exact ⟨rfl, rfl, congrArg some h.symm, fun _ => ⟨_, rfl, hle, hfits, hmax, rfl⟩, fun hne => absurd rfl hne⟩
  · rw [takeTraceRead_refused (hstatus.symm ▸ h), hstatus]
    exact ⟨rfl, rfl, rfl, fun hok => absurd (Option.some.inj hok) h, fun _ => ⟨rfl, rfl⟩⟩

/-! ### The end of a TRACE_READ frame (R109, R131) -/

/-- R131: `k` records were shifted out whole when the bytes hold the oldest `k`, and not one more of the snapshot. -/
theorem recordsShifted_eq {k n bytes : Nat} {rs : List Record} (hk : k ≤ n) (hn : n ≤ rs.length)
    (hin : 8 * slotsOf (rs.take k) ≤ bytes) (hout : k < n → bytes < 8 * slotsOf (rs.take (k + 1))) :
    recordsShifted n bytes rs = k := by
  induction rs generalizing k n bytes with
  | nil =>
    have hn0 : n = 0 := Nat.le_zero.1 hn
    subst hn0
    exact (Nat.le_zero.1 hk).symm
  | cons r rs ih =>
    match n, k with
    | 0, k => exact (Nat.le_zero.1 hk).symm
    | n + 1, 0 =>
      have hr : bytes < 8 * r.length := by simpa [slotsOf] using hout (Nat.succ_pos n)
      exact if_neg (Nat.not_le.2 hr)
    | n + 1, k + 1 =>
      simp only [List.take_succ_cons, slotsOf_cons] at hin hout
      rw [List.length_cons] at hn
      rw [recordsShifted, if_pos (by omega)]
      exact congrArg (· + 1) (ih (by omega) (by omega) (by omega) fun h => by have := hout (by omega); omega)

/-- R109: a removal that empties the store makes the reference invalid and the next group hold a SYNC. -/
theorem removeRead_tcu (n : Nat) (s : State) : (removeRead n s).tcu =
    if n ≠ 0 ∧ fill (removeRead n s) = 0 then { s.tcu with refValid := false, syncNeeded := true } else s.tcu := by
  have hfill : fill (removeRead n s) = fill (s.setTst { s.tst with
      records := s.tst.records.drop n, snapshot := none, stopped := if n = 0 then s.tst.stopped else false }) :=
    fill_congr (removeRead_left n s).1
  rw [hfill]
  exact apply_ite State.tcu _ _ _

theorem openRead_traceRead {s : State} {st : Status} (hc : s.mgp.received.head? = some 0x24)
    (hst : s.mgp.frameStatus = some st) : openRead s = some (.traceRead, st) := by
  simp only [openRead, commandOf, hc, hst]
  rfl

/-- R131, R192: the end of a TRACE_READ frame whose bytes after the header and size hold `k` records whole. -/
theorem exec_traceReadEnd {s : State} {snap k more : Nat} {st : Status} (hp : Powered s)
    (hc : s.mgp.received.head? = some 0x24) (hst : s.mgp.frameStatus = some st) (hs : s.tst.snapshot = some snap)
    (hk : recordsShifted snap (s.mgp.bytePos.toNat + more - 5) s.tst.records = k) :
    exec (.traceReadEnd more) s = .next (closeFrame st (removeRead k s)) := by
  refine (whenPowered_up hp).trans ?_
  simp only [endTraceRead, openRead_traceRead hc hst, hs, Option.getD_some, hk]

/-- Settles O39: the records shifted out whole are the first `k` of the snapshot, and `removeRead` removes them. -/
theorem traceReadEndRemovesWhatWasRead : Obligations.TraceReadEndRemovesWhatWasRead := by
  intro s snap k more hp hc hst hs hk hsnap hin hout
  have hshifted : recordsShifted snap (s.mgp.bytePos.toNat + more - 5) s.tst.records = k :=
    recordsShifted_eq hk hsnap (by omega) fun h => by have := hout h; omega
  have hfill : fill (closeFrame .ok (removeRead k s)) = fill (removeRead k s) := fill_congr (by simp)
  have htcu : (closeFrame .ok (removeRead k s)).tcu = (removeRead k s).tcu := by simp
  refine ⟨_, exec_traceReadEnd hp hc hst hs hshifted, ?_, rfl, fun hk0 h0 => ?_, fun h => ?_⟩
  · have hstopped : (decide (k = 0) && s.tst.stopped) = if k = 0 then s.tst.stopped else false := by
      split <;> simp [*]
    rw [hstopped, ← (removeRead_left k s).1]
    simp
  · rw [htcu, removeRead_tcu, if_pos ⟨hk0, hfill.symm.trans h0⟩]
  · rw [htcu, removeRead_tcu, if_neg fun ⟨hk0, h0⟩ => h.elim hk0 (· (hfill.trans h0))]

/-! ### The mode write (R97, R114, R128) -/

/-- R97: a request in ROOM_WAIT under the hold goes back to the hold point (log entry 10). -/
theorem cancelCapture_held {s : State} {t : RqpTxn} (h : s.rqp.inProcess = some t) (hp : t.phase = .roomWait)
    (hh : s.rqp.held = true) :
    cancelCapture s = setTxn (some { t with phase := .holdPoint }) (setCapture none s) := by
  simp only [cancelCapture, setCapture_frame, h, hp, hh, if_true]

/-- R114, R128: the store emptied in the new mode, before the capture in hand is cancelled. -/
def modeChanged (mode : BitVec 3) (s : State) : State :=
  ((mapEntries Entry.untraced s).setTst
    { s.tst with mode := mode, records := [], overwrite := 0, stopped := false }).setTcu
    { s.tcu with lossCount := 0, refValid := false, syncNeeded := true }

theorem writeMode_eq (mode : BitVec 3) (s : State) : writeMode mode s = cancelCapture (modeChanged mode s) := rfl

@[simp] theorem modeChanged_rqp (mode : BitVec 3) (s : State) : (modeChanged mode s).rqp = s.rqp := by
  simp [modeChanged]

theorem entry_modeChanged (mode : BitVec 3) (s : State) (n : Fin 64) :
    entry (modeChanged mode s) n = (entry s n).untraced := by
  rw [entry_congr (t := modeChanged mode s) (s := mapEntries Entry.untraced s) (by simp [modeChanged]),
    entry_mapEntries]

/-- R23: a mode write frees no slot and takes none. -/
theorem lowestFree_modeChanged {mode : BitVec 3} {s : State} {n : Fin 64} (h : LowestFree s n) :
    LowestFree (modeChanged mode s) n := by
  have hstate : ∀ m, (entry (modeChanged mode s) m).state = (entry s m).state := fun m => by
    rw [entry_modeChanged]
    rfl
  simpa only [LowestFree, hstate] using h

/-- R97, R169: a request in ROOM_WAIT that no hold keeps begins its offer at the mode write. -/
theorem writeMode_begins {mode : BitVec 3} {s : State} {t : RqpTxn} {n : Fin 64} (h : s.rqp.inProcess = some t)
    (hp : t.phase = .roomWait) (hh : s.rqp.held = false) (hn : LowestFree s n) :
    (writeMode mode s).rqp = { s.rqp with inProcess := some { t with phase := .offered n } } := by
  rw [writeMode_eq, cancelCapture_begins (t := t) (by simpa using h) hp (by simpa using hh) (lowestFree_modeChanged hn)]
  simp

/-- R97: under the hold it waits at the hold point (log entry 10). -/
theorem writeMode_held {mode : BitVec 3} {s : State} {t : RqpTxn} (h : s.rqp.inProcess = some t)
    (hp : t.phase = .roomWait) (hh : s.rqp.held = true) :
    (writeMode mode s).rqp = { s.rqp with inProcess := some { t with phase := .holdPoint } } := by
  rw [writeMode_eq, cancelCapture_held (t := t) (by simpa using h) hp (by simpa using hh)]
  simp

theorem writeMode_rqp {mode : BitVec 3} {s : State} (h : NoneWaitsForRoom s) : (writeMode mode s).rqp = s.rqp := by
  rw [writeMode_eq, cancelCapture_same (by simpa [NoneWaitsForRoom] using h)]
  simp

theorem writeMode_tst (mode : BitVec 3) (s : State) : (writeMode mode s).tst =
    { s.tst with mode := mode, records := [], overwrite := 0, stopped := false } := by
  rw [writeMode_eq]
  simp [modeChanged]

theorem writeMode_tcu (mode : BitVec 3) (s : State) : (writeMode mode s).tcu =
    { s.tcu with lossCount := 0, refValid := false, syncNeeded := true, capture := none } := by
  rw [writeMode_eq, (cancelCapture_spec _).1]
  rfl

/-- R114, R122, R123: after a mode write the store holds the egress tail alone, with nothing reserved or claimed. -/
theorem writeMode_counts (mode : BitVec 3) (s : State) : reserved (writeMode mode s) = 0
    ∧ claim (writeMode mode s) = 0 ∧ fill (writeMode mode s) = egressTail s := by
  refine ⟨reserved_eq_zero fun n => ?_, ?_, ?_⟩
  · rw [writeMode_entry]
    rfl
  · simp [claim, writeMode_tcu]
  · simp [fill, egressTail, writeMode_tst, slotsOf]

theorem exec_modeWrite {w : Word} {s : State} (hb : BetweenFrames s) :
    exec (.modeWrite 0x090 1 [w]) s = .next ((writeMode (w.extractLsb' 0 3) s).setMgp (Mgp.idle .ok)) :=
  (whenPowered_up (powered_of_between hb)).trans
    (congrArg _ (writeFrame_single (x := .storeMode) hb rfl rfl rfl))

/-- Settles O41: `writeMode` empties the store, and `cancelCapture` does with the request what its phase and the hold
call for. -/
theorem aModeWriteEmptiesTheStore : Obligations.AModeWriteEmptiesTheStore := by
  intro w s hb
  obtain ⟨hreserved, hclaim, hfill⟩ := writeMode_counts (w.extractLsb' 0 3) s
  have hheld : (writeMode (w.extractLsb' 0 3) s).rqp.held = s.rqp.held := by
    rw [writeMode_eq, (cancelCapture_spec _).2.1, modeChanged_rqp]
  refine ⟨_, exec_modeWrite hb, writeMode_tst _ s, writeMode_tcu _ s, writeMode_entry _ s, hreserved, hclaim, hfill,
    by simp, rfl, hheld, by simp, by simp, by simp, by simp, by simp, fun x n hx hp hh hn => ?begins,
    fun x hx hp hh => ?held, fun hnone => writeMode_rqp hnone⟩
  case begins => rw [State.setMgp_rqp, writeMode_begins hx hp hh hn]
  case held => rw [State.setMgp_rqp, writeMode_held hx hp hh]

end Sys2Proof.Machine
/-! PROOFS. The ALERT line (R148). -/
namespace Sys2Proof.Machine

/-- Two sets held as words have a member in common exactly when some bit is 1 in both. -/
theorem and_ne_zero_iff_common_bit {w : Nat} (x y : BitVec w) :
    x &&& y ≠ 0 ↔ ∃ i, i < w ∧ x.getLsbD i = true ∧ y.getLsbD i = true := by
  have hdisjoint : x &&& y = 0 ↔ ∀ i, i < w → (x.getLsbD i && y.getLsbD i) = false := by
    simp only [BitVec.eq_of_getLsbD_eq_iff, BitVec.getLsbD_and, BitVec.ofNat_eq_ofNat, BitVec.getLsbD_zero]
  rw [Ne, hdisjoint]
  simp only [Classical.not_forall, Bool.not_eq_false, Bool.and_eq_true, exists_prop]

/-- R148: the line is up exactly when the two sets meet. -/
theorem alertLine_eq_true_iff (s : State) : alertLine s = true ↔ s.alc.pending &&& s.alc.enable ≠ 0 :=
  decide_eq_true_iff

/-- Settles O52: the line is up when the two sets meet, and they meet in a bit that is 1 in both. -/
theorem theAlertLineFollowsTheSets : Obligations.TheAlertLineFollowsTheSets := fun s =>
  calc alertLine s = true
    _ ↔ s.alc.pending &&& s.alc.enable ≠ 0 := alertLine_eq_true_iff s
    _ ↔ ∃ i, i < 6 ∧ s.alc.pending.getLsbD i = true ∧ s.alc.enable.getLsbD i = true :=
      and_ne_zero_iff_common_bit _ _

end Sys2Proof.Machine
/-! PROOFS. The edges of REFCLK (R154, R155). -/
namespace Sys2Proof.Machine

theorem exec_refclkRisingEdge {s : State} (h : Powered s) : exec .refclkRisingEdge s = .next (refclkEdge s) :=
  whenPowered_up h

/-- R154: the edge that brings the count to the divisor is the tick. -/
theorem refclkEdge_ticks {s : State} (h : s.tbs.prescale.toNat + 1 = effectiveDivisor s.tbs.divisor) :
    refclkEdge s = tickEvent s := if_pos h

/-- R154: every other edge only counts, whatever the count stands at. -/
theorem refclkEdge_only_counts {s : State} (h : s.tbs.prescale.toNat + 1 ≠ effectiveDivisor s.tbs.divisor) :
    refclkEdge s = s.setTbs { s.tbs with prescale := s.tbs.prescale + 1 } := if_neg h

/-- Settles O25: an edge is a count or the tick, and `tickEvent_tbs` says what the tick leaves in the timebase. -/
theorem refclkEdgesMakeTicks : Obligations.RefclkEdgesMakeTicks := by
  intro s hp
  refine ⟨fun hbelow => ?counts, fun hreached => ⟨tickEvent s, ?ticks, tickEvent_tbs s⟩⟩
  case counts =>
    rw [exec_refclkRisingEdge hp, refclkEdge_only_counts hbelow]
    rfl
  case ticks => rw [exec_refclkRisingEdge hp, refclkEdge_ticks hreached]

end Sys2Proof.Machine
/-! PROOFS. The invariants at State.reset (R160, R181, R199). -/
namespace Sys2Proof.Machine

/-! ### What the absence of messages gives -/

/-- R175: with RQP and the queue empty every position is free. -/
theorem Quiet.queueWithinBound {s : State} (q : Quiet s) : QueueWithinBound s := by
  unfold QueueWithinBound reservedPositions
  rw [q.queue, q.rqp]
  exact Nat.zero_le _

/-- R179, R180: it is what LRST_N asks for, whatever its level. -/
theorem Quiet.linksQuiet {s : State} (q : Quiet s) : LinksQuiet s :=
  fun _ => ⟨q.rqp, q.rsp, q.queue, q.offer, q.slots⟩

/-! ### The reset values -/

/-- R25: every slot is at its reset value. -/
theorem entry_reset (n : Fin 64) : entry State.reset n = Entry.reset := powerOn_entry State.reset n

theorem reset_quiet : Quiet State.reset where
  rqp := rfl
  rsp := rfl
  queue := rfl
  offer := rfl
  rqpReport := rfl
  rspReport := rfl
  slots n := by rw [entry_reset]; rfl

/-- R113, R115: store, reservations and claim are those of POWER_ON_RESET. -/
theorem reset_store : StoreWithinBound State.reset := store_same rfl rfl rfl (powerOn_store State.reset)

theorem reset_trace : TraceFieldsClear State.reset :=
  traceFieldsClear_iff.2 fun n => by rw [entry_reset]; exact .freed Entry.reset

theorem reset_ages : AgesFollowTimestamp State.reset :=
  agesFollowTimestamp_iff.2 fun n => by rw [entry_reset]; exact .issued rfl rfl

theorem reset_within : SequencerWithinProgram State.reset :=
  sequencerWithinProgram_iff.2 (.restarted rfl rfl rfl rfl)

/-- R199: PORST_N is deasserted (log entry 7), so nothing holds the blocks. -/
theorem reset_heldAtPowerOn : HeldAtPowerOn State.reset := nofun

/-- Settles O53: no message is in the part, which gives the invariants of the table, the paths and the queue; the others
follow from the reset values of their blocks. -/
theorem theInvariantsHoldAtReset : Obligations.TheInvariantsHoldAtReset := by
  obtain ⟨hpairs, hrequest⟩ := reset_quiet.table
  obtain ⟨hreports, hresponses⟩ := reset_quiet.reports
  exact ⟨reset_quiet.queueWithinBound, hpairs, hrequest, reset_ages, reset_quiet.paths, reset_store, reset_within,
    prescale_zero rfl, reset_heldAtPowerOn, reset_quiet.linksQuiet, hreports, reset_trace, hresponses⟩

end Sys2Proof.Machine
/-! PROOFS. What becomes of the traffic at a command (R161, R171, R175, R179, R180, R199). Most commands leave every
message in the part where it is or turn it into a synthesized response; the takes at the link ports and the resets are
the others. The bound of the queue, the resets in force and what the part owes follow. -/
namespace Sys2Proof.Machine

/-! ### What the part owes for a pair, block by block (R171) -/

/-- The entry is LIVE and holds the pair, so that a response is owed for it. -/
def Entry.owes (p : Pair) (e : Entry) : Bool := decide (e.state = .live ∧ (e.initiator, e.tag) = p)

theorem Entry.owes_of_not_live {p : Pair} {e : Entry} (h : e.state ≠ .live) : e.owes p = false :=
  decide_eq_false fun hl => h hl.1

theorem Entry.owes_of_live {p : Pair} {e : Entry} (h : e.state = .live) :
    e.owes p = decide ((e.initiator, e.tag) = p) := by simp [Entry.owes, h]

theorem Entry.owes_congr {p : Pair} {e f : Entry} (hs : f.state = e.state) (hi : f.initiator = e.initiator)
    (ht : f.tag = e.tag) : f.owes p = e.owes p := by simp only [Entry.owes, hs, hi, ht]

theorem owedByOtt_congr {p : Pair} {s t : State} (h : ∀ n, (entry t n).owes p = (entry s n).owes p) :
    owedByOtt p t = owedByOtt p s := countP_congr_entries h

/-- Where the other slots owe what they owed, the count changes as that one slot does. -/
theorem owedByOtt_slot {p : Pair} {s t : State} {n : Fin 64}
    (h : ∀ m, m ≠ n → (entry t m).owes p = (entry s m).owes p) :
    owedByOtt p t + (if (entry s n).owes p then 1 else 0) = owedByOtt p s + (if (entry t n).owes p then 1 else 0) := by
  have hset : owedByOtt p t = owedByOtt p (setEntry n (entry t n) s) := owedByOtt_congr fun m => by
    rw [entry_setEntry]
    split
    · next hm => rw [hm]
    · next hm => exact h m hm
  rw [hset]
  exact countP_set (Entry.owes p) s.ott.slots n (entry t n)

theorem owedByRqp_congr {p : Pair} {s t : State} (h : t.rqp.inProcess.map RqpTxn.req = s.rqp.inProcess.map RqpTxn.req) :
    owedByRqp p t = owedByRqp p s := by
  unfold owedByRqp
  cases ht : t.rqp.inProcess <;> cases hs : s.rqp.inProcess <;> simp_all

theorem owedByRqp_none {p : Pair} {s : State} (h : s.rqp.inProcess = none) : owedByRqp p s = 0 := by
  simp only [owedByRqp, h]

theorem owedByRqp_some {p : Pair} {s : State} {x : RqpTxn} (h : s.rqp.inProcess = some x) :
    owedByRqp p s = if (x.req.initiator, x.req.tag) = p then 1 else 0 := by simp only [owedByRqp, h]

theorem owedByRmg_congr {p : Pair} {s t : State} (h : t.rmg.queue = s.rmg.queue) : owedByRmg p t = owedByRmg p s := by
  simp only [owedByRmg, h]

/-- R176: a response at the newest end of the queue. -/
theorem owedByRmg_enqueued {p : Pair} {s t : State} {r : UpResponse} (h : t.rmg.queue = s.rmg.queue ++ [r]) :
    owedByRmg p t = owedByRmg p s + if (r.initiator, r.tag) = p then 1 else 0 := by
  simp only [owedByRmg, h, List.countP_append, List.countP_singleton, decide_eq_true_eq]

/-! ### Traffic that stays where it is -/

/-- R179: RQP, RSP and RMG are empty and every slot is FREE, as `LinksQuiet` asks while LRST_N is asserted. -/
def LinksEmpty (s : State) : Prop :=
  s.rqp.inProcess = none ∧ s.rsp.inProcess = none ∧ s.rmg.queue = [] ∧ s.rmg.offer = none
    ∧ ∀ n, (entry s n).state = .free

theorem linksQuiet_iff {s : State} : LinksQuiet s ↔ (s.pins.lrst = true → LinksEmpty s) := .rfl

/-- From `s` to `t` the requests and the synthesized responses stay where they are: the slots owe what they owed, RQP
holds the request it held, the queue is the same; and neither the reset pins nor the waiting commands change. -/
structure Stays (s t : State) : Prop where
  owes : ∀ p n, (entry t n).owes p = (entry s n).owes p
  free : ∀ n, (entry s n).state = .free → (entry t n).state = .free
  request : t.rqp.inProcess.map RqpTxn.req = s.rqp.inProcess.map RqpTxn.req
  queue : t.rmg.queue = s.rmg.queue
  empty : LinksEmpty s → t.rsp.inProcess = none ∧ t.rmg.offer = none
  pending : t.pending = s.pending
  porst : t.pins.porst = s.pins.porst
  lrst : t.pins.lrst = s.pins.lrst

/-- The blocks of the links are as they were, but that the request in RQP may be in another phase. -/
theorem Stays.ofBlocks {s t : State} (hott : t.ott = s.ott)
    (hrqp : t.rqp.inProcess.map RqpTxn.req = s.rqp.inProcess.map RqpTxn.req) (hrsp : t.rsp = s.rsp)
    (hrmg : t.rmg = s.rmg) (hq : t.pending = s.pending) (hp : t.pins = s.pins) : Stays s t where
  owes p n := by rw [entry_congr hott]
  free n h := by rw [entry_congr hott, h]
  request := hrqp
  queue := by rw [hrmg]
  empty h := by
    obtain ⟨_, hn, _, ho, _⟩ := h
    rw [hrsp, hrmg]
    exact ⟨hn, ho⟩
  pending := hq
  porst := by rw [hp]
  lrst := by rw [hp]

theorem Stays.refl (s : State) : Stays s s := .ofBlocks rfl rfl rfl rfl rfl rfl

/-- Every slot is changed by a function that keeps its state and pair, but that an ORPHANED slot may be freed. -/
theorem Stays.mapped {s t : State} {f : Entry → Entry} (he : ∀ n, entry t n = f (entry s n))
    (hlive : ∀ e, (f e).state = .live ↔ e.state = .live) (hfree : ∀ e, e.state = .free → (f e).state = .free)
    (hpair : ∀ e, (f e).initiator = e.initiator ∧ (f e).tag = e.tag)
    (hrqp : t.rqp.inProcess.map RqpTxn.req = s.rqp.inProcess.map RqpTxn.req)
    (hrsp : s.rsp.inProcess = none → t.rsp.inProcess = none) (hrmg : t.rmg = s.rmg) (hq : t.pending = s.pending)
    (hp : t.pins = s.pins) : Stays s t where
  owes p n := by
    obtain ⟨hi, ht⟩ := hpair (entry s n)
    simp only [Entry.owes, he, hlive, hi, ht]
  free n h := by rw [he]; exact hfree _ h
  request := hrqp
  queue := by rw [hrmg]
  empty h := by
    obtain ⟨_, hn, _, ho, _⟩ := h
    rw [hrmg]
    exact ⟨hrsp hn, ho⟩
  pending := hq
  porst := by rw [hp]
  lrst := by rw [hp]

/-- Every slot is as it was but for its reservation. -/
theorem Stays.reserved {s t : State}
    (he : ∀ n, ∃ k ≤ (entry s n).reservation, entry t n = { entry s n with reservation := k })
    (hrqp : t.rqp.inProcess.map RqpTxn.req = s.rqp.inProcess.map RqpTxn.req)
    (hrsp : LinksEmpty s → t.rsp.inProcess = none) (hrmg : t.rmg = s.rmg) (hq : t.pending = s.pending)
    (hp : t.pins = s.pins) : Stays s t where
  owes p n := by obtain ⟨k, _, hk⟩ := he n; rw [hk]; rfl
  free n h := by obtain ⟨k, _, hk⟩ := he n; rw [hk]; exact h
  request := hrqp
  queue := by rw [hrmg]
  empty h := by
    have hn := hrsp h
    obtain ⟨_, _, _, ho, _⟩ := h
    rw [hrmg]
    exact ⟨hn, ho⟩
  pending := hq
  porst := by rw [hp]
  lrst := by rw [hp]

/-- One slot is changed, and owes what it owed. -/
theorem Stays.slot {s t : State} {n : Fin 64} {e : Entry} (he : ∀ m, entry t m = if m = n then e else entry s m)
    (howes : ∀ p, e.owes p = (entry s n).owes p) (hfree : (entry s n).state = .free → e.state = .free)
    (hrqp : t.rqp = s.rqp) (hrsp : t.rsp = s.rsp) (hrmg : t.rmg = s.rmg) (hq : t.pending = s.pending)
    (hp : t.pins = s.pins) : Stays s t where
  owes p m := by
    rw [he]; split
    · next hm => rw [hm, howes]
    · rfl
  free m h := by
    rw [he]; split
    · next hm => rw [hm] at h; exact hfree h
    · exact h
  request := by rw [hrqp]
  queue := by rw [hrmg]
  empty h := by
    obtain ⟨_, hn, _, ho, _⟩ := h
    rw [hrsp, hrmg]
    exact ⟨hn, ho⟩
  pending := hq
  porst := by rw [hp]
  lrst := by rw [hp]

/-- R165: along a move the request in RQP is the same. -/
theorem Moves.request {s t : State} (m : Moves s t) :
    t.rqp.inProcess.map RqpTxn.req = s.rqp.inProcess.map RqpTxn.req := by
  cases hx : s.rqp.inProcess with
  | none => rw [m.none hx]
  | some x =>
    obtain ⟨y, hy, hreq, _⟩ := m.some x hx
    rw [hy, Option.map_some, Option.map_some, hreq]

theorem Moves.stays {s t : State} (m : Moves s t) (hott : t.ott = s.ott) (hrmg : t.rmg = s.rmg)
    (hq : t.pending = s.pending) (hp : t.pins = s.pins) : Stays s t := .ofBlocks hott m.request m.rsp hrmg hq hp

/-! ### Traffic that is settled inside the part -/

/-- From `s` to `t` nothing is taken in and nothing is delivered: the part owes what it owed, the queue stays within its
bound, empty links stay empty, and neither the reset pins nor the waiting commands change. -/
structure Settled (s t : State) : Prop where
  owed : ∀ p, owed p t = owed p s
  bound : QueueWithinBound s → QueueWithinBound t
  empty : LinksEmpty s → LinksEmpty t
  pending : t.pending = s.pending
  porst : t.pins.porst = s.pins.porst
  lrst : t.pins.lrst = s.pins.lrst

theorem Settled.trans {s t u : State} (h : Settled s t) (k : Settled t u) : Settled s u where
  owed p := (k.owed p).trans (h.owed p)
  bound := k.bound ∘ h.bound
  empty := k.empty ∘ h.empty
  pending := k.pending.trans h.pending
  porst := k.porst.trans h.porst
  lrst := k.lrst.trans h.lrst

theorem Stays.reservedPositions {s t : State} (h : Stays s t) : reservedPositions t = reservedPositions s :=
  reservedPositions_congr (by simpa using congrArg Option.isSome h.request)

theorem Stays.settled {s t : State} (h : Stays s t) : Settled s t where
  owed p := by
    unfold Machine.owed
    rw [owedByRqp_congr h.request, owedByOtt_congr (h.owes p), owedByRmg_congr h.queue]
  bound hb := by
    unfold QueueWithinBound
    rw [h.queue, h.reservedPositions]
    exact hb
  empty he := by
    obtain ⟨hr, ho⟩ := h.empty he
    obtain ⟨hn, _, hq, _, hf⟩ := he
    exact ⟨by simpa [hn] using h.request, hr, h.queue.trans hq, ho, fun n => h.free n (hf n)⟩
  pending := h.pending
  porst := h.porst
  lrst := h.lrst

theorem Settled.refl (s : State) : Settled s s := (Stays.refl s).settled

/-- R16: at an expiry under ABANDON the queued TIMEOUT response is owed in place of the entry. -/
theorem abandon_settled {n : Fin 64} {s : State} (hd : Due s n)
    (hroom : s.rmg.queue.length + reservedPositions s < Config.queuePositions) : Settled s (abandon n s) where
  owed p := by
    have hrqp : owedByRqp p (abandon n s) = owedByRqp p s := owedByRqp_congr (abandon_moves hd).request
    have hrmg := owedByRmg_enqueued (p := p) (congrArg Rmg.queue (abandon_rmg n s))
    have hott := owedByOtt_slot (p := p) (n := n) (s := s) (t := abandon n s)
      (fun m hm => by rw [abandon_entry, if_neg hm])
    rw [abandon_entry, if_pos rfl, Entry.owes_of_live hd.1,
      Entry.owes_of_not_live (by rw [(entry s n).abandoned_fields.1]; nofun)] at hott
    unfold Machine.owed
    by_cases hp : ((entry s n).initiator, (entry s n).tag) = p <;> simp [timeoutAnswer, hp] at hrmg hott <;> omega
  bound _ := by
    unfold QueueWithinBound
    rw [abandon_rmg, reservedPositions_congr (abandon_isSome n s)]
    simp only [List.length_append, List.length_singleton]
    omega
  empty he := by
    obtain ⟨_, _, _, _, hf⟩ := he
    exact absurd (hd.1.symm.trans (hf n)) nofun
  pending := by simp
  porst := by simp
  lrst := by simp

theorem makeClaims_settled (s : State) : Settled s (makeClaims s) :=
  makeClaims_kept (P := Settled s) (fun _ _ h _ hd hroom => h.trans (abandon_settled hd hroom)) (.refl s)

theorem claimAtReport_settled (s : State) : Settled s (claimAtReport s) :=
  claimAtReport_kept (P := Settled s) (fun _ _ h _ hd hroom => h.trans (abandon_settled hd hroom))
    ((setChoices_moves s (s.choices + 1)).stays rfl rfl rfl rfl).settled (.refl s)

/-- R86: at a FENCE the queued response is owed in place of the request, whose position it takes. -/
theorem fenceRequest_settled (s : State) : Settled s (fenceRequest s) := by
  cases hx : s.rqp.inProcess with
  | none => rw [show fenceRequest s = s by simp only [fenceRequest, hx]]; exact .refl s
  | some x =>
    obtain ⟨hrmg, hrqp, _⟩ := fenceRequest_leaves hx
    have hnone : (fenceRequest s).rqp.inProcess = none := by rw [hrqp]
    refine ⟨fun p => ?_, fun hb => ?_, fun he => ?_, by simp, by simp, by simp⟩
    · have hq : owedByRmg p (fenceRequest s) = owedByRmg p s + if (x.req.initiator, x.req.tag) = p then 1 else 0 :=
        owedByRmg_enqueued (congrArg Rmg.queue hrmg)
      have hott : owedByOtt p (fenceRequest s) = owedByOtt p s := owedByOtt_congr fun n => by simp
      unfold Machine.owed
      rw [owedByRqp_none hnone, owedByRqp_some hx, hott, hq]
      omega
    · unfold QueueWithinBound at hb ⊢
      rw [reservedPositions_some hx] at hb
      rw [reservedPositions_none hnone, hrmg]
      simpa using hb
    · rw [he.1] at hx; cases hx

end Sys2Proof.Machine
namespace Sys2Proof.Machine

/-! ### Blocks without traffic -/

theorem setMu_stays (x : Mu) (s : State) : Stays s (s.setMu x) := .ofBlocks rfl rfl rfl rfl rfl rfl
theorem setTsq_stays (x : Tsq) (s : State) : Stays s (s.setTsq x) := .ofBlocks rfl rfl rfl rfl rfl rfl
theorem setTst_stays (x : Tst) (s : State) : Stays s (s.setTst x) := .ofBlocks rfl rfl rfl rfl rfl rfl
theorem setAns_stays (x : Ans) (s : State) : Stays s (s.setAns x) := .ofBlocks rfl rfl rfl rfl rfl rfl
theorem setAlc_stays (x : Alc) (s : State) : Stays s (s.setAlc x) := .ofBlocks rfl rfl rfl rfl rfl rfl
theorem setTbs_stays (x : Tbs) (s : State) : Stays s (s.setTbs x) := .ofBlocks rfl rfl rfl rfl rfl rfl
theorem setCapturing_stays (b : Bool) (s : State) : Stays s (setCapturing b s) := .ofBlocks rfl rfl rfl rfl rfl rfl

/-! ### The takes of the arbiter (R54 to R57, R86) -/

theorem countTaken_stays (i : Input) (x : BitVec 10) (s : State) : Stays s ((countInput x (takeInput i s)).2) := by
  have hreq := (countInput_moves x (takeInput i s)).request
  exact .ofBlocks (by simp) (by simpa using hreq) (by simp) (by simp) (by simp) (by simp)

/-- R165: a request whose verdict is FORWARD stays in RQP. -/
theorem forwardRequest_stays (s : State) : Stays s (forwardRequest s) := by
  refine .ofBlocks (by simp) ?_ (by simp) (by simp) (by simp) (by simp)
  rw [forwardRequest_eq]
  cases hx : s.rqp.inProcess with
  | none => rfl
  | some x => simp [x.forwarded_req]

/-- R174: the answer of RSP takes from its slot's reservation at most. -/
theorem answerResponse_stays (f : Bool) (s : State) : Stays s (answerResponse f s) := by
  refine .reserved (answerResponse_entry f s) (by simp) (fun h => ?_) (by simp) (by simp) (by simp)
  obtain ⟨_, hn, _⟩ := h
  simp only [answerResponse, hn]

theorem forwardResponse_stays (s : State) : Stays s (forwardResponse s) := by
  unfold forwardResponse
  split
  · split
    · exact answerResponse_stays false s
    · exact .refl s
  · exact .refl s

theorem takeReport_settled (s : State) : Settled s (takeReport s) := by
  unfold takeReport
  split
  · unfold takeRqpReport
    dsimp only
    split
    · exact (countTaken_stays _ _ s).settled.trans (fenceRequest_settled _)
    · exact (countTaken_stays _ _ s).settled.trans (forwardRequest_stays _).settled
  · exact (countTaken_stays _ _ s).settled.trans (answerResponse_stays _ _).settled
  · exact .refl s

theorem takeXt_stays (s : State) : Stays s (takeXt s) := by
  unfold takeXt
  split
  · exact countTaken_stays _ _ s
  · exact .refl s

theorem takeAn_stays (s : State) : Stays s (takeAn s) := by
  unfold takeAn
  split
  · exact countTaken_stays _ _ s
  · exact .refl s

theorem takeDwell_stays (s : State) : Stays s (takeDwell s) := by
  refine (takeDwell_moves s).stays ?_ ?_ ?_ ?_ <;> unfold takeDwell <;> dsimp only <;> (repeat' split) <;> simp

theorem takeArmCommand_stays (s : State) : Stays s (takeArmCommand s) := by
  refine (takeArmCommand_moves s).stays ?_ ?_ ?_ ?_ <;> unfold takeArmCommand <;> dsimp only <;> split <;> simp

theorem takeDisarmCommand_stays (s : State) : Stays s (takeDisarmCommand s) := by
  refine (takeDisarmCommand_moves s).stays ?_ ?_ ?_ ?_ <;> unfold takeDisarmCommand <;> dsimp only
    <;> (repeat' split) <;> simp

/-! ### The ticks (R154 to R156) -/

/-- R12: ageing touches neither state nor pair. -/
theorem aged_stays (s : State) : Stays s (mapEntries Entry.aged s) :=
  .mapped (entry_mapEntries _ s) (fun e => by rw [e.aged_state]) (fun e h => by rw [e.aged_state, h])
    (fun e => by unfold Entry.aged; split <;> exact ⟨rfl, rfl⟩) (by simp) (by simp) (by simp) (by simp) (by simp)

theorem expireReport_stays (n : Fin 64) (s : State) : Stays s (expireReport n s) := by
  have he := expireReport_entry n s
  by_cases hd : due s n = true
  · simp only [hd, and_true] at he
    exact .slot he (fun _ => rfl) id (by simp) (by simp) (by simp) (by simp) (by simp)
  · have hsame : expireReport n s = s := by simp [expireReport, hd]
    rw [hsame]
    exact .refl s

theorem ottTick_settled (s : State) : Settled s (ottTick s) := by
  unfold ottTick
  dsimp only
  split
  · exact foldl_kept (fun t n => expireReport n t) (Settled s) (fun t n h => h.trans (expireReport_stays n t).settled) _ _
      (aged_stays s).settled
  · exact (aged_stays s).settled.trans (makeClaims_settled _)

theorem tickEvent_settled (s : State) : Settled s (tickEvent s) := by
  have hrqp : ∀ t, Stays t (rqpTick t) := fun t => (rqpTick_moves t).stays (by simp) (by simp) (by simp) (by simp)
  have htsq : ∀ t, Stays t (tsqTick t) := fun t => (tsqTick_moves t).stays (by simp) (by simp) (by simp) (by simp)
  have hpulse : ∀ t, Stays t (pulseTick t) := fun t => (pulseTick_moves t).stays (by simp) (by simp) (by simp) (by simp)
  exact (setTbs_stays _ s).settled.trans ((ottTick_settled _).trans
    ((hrqp _).settled.trans ((htsq _).settled.trans (hpulse _).settled)))

theorem tickWhen_settled (o : State → State → Bool) (s : State) : Settled s (tickWhen o s) := by
  unfold tickWhen
  split
  · exact tickEvent_settled s
  · exact .refl s

theorem refclkEdge_settled (s : State) : Settled s (refclkEdge s) := by
  unfold refclkEdge
  split
  · exact tickEvent_settled s
  · exact (setTbs_stays _ s).settled

/-! ### The messages that stay in the part (R169, R172 to R174, R177) -/

theorem passHoldPoint_stays (s : State) : Stays s (passHoldPoint s) :=
  (passHoldPoint_moves s).stays (by simp) (by simp) (by simp) (by simp)

/-- R177: without a response there is no offer to begin. -/
theorem beginUpstreamOffer_stays (s : State) : Stays s (beginUpstreamOffer s) := by
  unfold beginUpstreamOffer
  split
  · refine ⟨fun _ _ => rfl, fun _ => id, rfl, rfl, fun h => ⟨h.2.1, ?_⟩, rfl, rfl, rfl⟩
    obtain ⟨_, hn, hq, _⟩ := h
    simp [nextSource, rspAnswer, hn, hq]
  · exact .refl s

/-- R7, R8: a matched response belongs to a LIVE entry, which owes its own until RMG has delivered it. -/
theorem takeMatched_stays {n : Fin 64} {r : Response} {s : State} (h : (entry s n).state = .live) :
    Stays s (takeMatched n r s) := by
  obtain ⟨hrqp, hrmg⟩ := takeMatched_frame n r s
  refine .reserved (takeMatched_entry n r s) (by rw [hrqp]) (fun he => ?_) hrmg ?_ ?_
  · obtain ⟨_, _, _, _, hf⟩ := he
    rw [hf n] at h
    cases h
  all_goals unfold takeMatched; dsimp only; split <;> simp

/-- R10: a late response frees an ORPHANED slot, which owes nothing. -/
theorem takeLate_stays {n : Fin 64} {s : State} (h : (entry s n).state = .orphaned) : Stays s (takeLate n s) :=
  .slot (n := n) (e := (entry s n).freed) (fun m => by simp [takeLate, entry_setEntry])
    (fun p => by rw [Entry.owes_of_not_live (by simp [Entry.freed]), Entry.owes_of_not_live (by rw [h]; nofun)])
    (fun _ => rfl) (by simp) (by simp) (by simp) (by simp) (by simp)

theorem takeAnomaly_stays (a : Anomaly) (s : State) : Stays s (takeAnomaly a s) :=
  (takeAnomaly_moves a s).stays (by simp) (by simp) (by simp) (by simp)

theorem takeResponse_stays (r : Response) (s : State) : Stays s (takeResponse r s) := by
  unfold takeResponse
  split
  · obtain ⟨hl, hs, _⟩ | ⟨hl, hs, _⟩ | ⟨hl, _⟩ := lookup_cases r.tag s <;> rw [hl]
    · exact takeMatched_stays hs
    · exact takeLate_stays hs
    · exact takeAnomaly_stays _ s
  · exact .refl s

/-! ### The management port and the egress port -/

theorem port_stays (b : Bool) (m : Mgp) (s : State) : Stays s ((s.setPins { s.pins with cs := b }).setMgp m) :=
  ⟨fun _ _ => rfl, fun _ => id, rfl, rfl, fun ⟨_, hn, _, ho, _⟩ => ⟨hn, ho⟩, rfl, rfl, rfl⟩

theorem closeFrame_stays (st : Status) (s : State) : Stays s (closeFrame st s) := port_stays false (Mgp.idle st) s

/-- R183: the end of a frame writes MGP and CS_N behind the command taken. -/
theorem endFrame_settled {f : List Byte} {take : State → Status × State} {s : State} (h : Settled s (take s).2) :
    Settled s (endFrame f take s) := by
  unfold endFrame
  split
  · exact h.trans (closeFrame_stays _ _).settled
  · exact .refl s

theorem sendHeader_settled {f : List Byte} {take : State → State} (h : ∀ t, Stays t (take t)) (s : State) :
    Settled s (sendHeader f take s) := by
  unfold sendHeader
  split
  · exact (port_stays true _ s).settled.trans (h _).settled
  · exact .refl s

theorem takeReadReg_stays (i : Half) (c : Byte) (s : State) : Stays s (takeReadReg i c s) :=
  .ofBlocks (by simp) (by simp) (by simp) (by simp) (by simp) (by simp)

theorem takeReadEntry_stays (n : Byte) (s : State) : Stays s (takeReadEntry n s) :=
  .ofBlocks (by simp) (by simp) (by simp) (by simp) (by simp) (by simp)

theorem takeTraceRead_stays (c : Half) (s : State) : Stays s (takeTraceRead c s) :=
  .ofBlocks (by simp) (by simp) (by simp) (by simp) (by simp) (by simp)

theorem sclkEdge_stays (b : Bool) (s : State) : Stays s (sclkEdge b s) :=
  .ofBlocks (by simp) (by simp) (by simp) (by simp) (by simp) (by simp)

theorem beginFrame_stays (s : State) : Stays s (beginFrame s) := by
  unfold beginFrame
  split
  · exact port_stays true _ s
  · exact .refl s

theorem abortFrame_stays (s : State) : Stays s (abortFrame s) := by
  unfold abortFrame
  split
  · split
    · exact port_stays false s.mgp s
    · exact closeFrame_stays _ s
  · split <;> exact closeFrame_stays _ s
  · exact closeFrame_stays _ s
  · exact closeFrame_stays _ s
  · exact .refl s
  · exact .refl s

theorem endReadFrame_stays (s : State) : Stays s (endReadFrame s) := by
  unfold endReadFrame
  split
  · exact closeFrame_stays _ s
  · exact closeFrame_stays _ s
  · exact .refl s

theorem endTraceRead_settled (n : Nat) (s : State) : Settled s (endTraceRead n s) := by
  have hremove : ∀ k, Stays s (removeRead k s) := fun k =>
    (removeRead_moves k s).stays (by simp) (by simp) (by simp) (by simp)
  unfold endTraceRead
  split
  · exact (hremove _).settled.trans (closeFrame_stays _ _).settled
  · exact .refl s

theorem endBadCommand_settled (c : Byte) (s : State) : Settled s (endBadCommand c s) := by
  unfold endBadCommand
  split
  · exact endFrame_settled (.refl s)
  · exact .refl s

/-- R128, R188: of the written words the store mode reaches slots and RQP, and leaves the messages where they are. -/
theorem writeWord_stays (x : WinWord) (w : Word) (s : State) : Stays s (writeWord s x w) := by
  cases x with
  | storeMode =>
    refine .mapped (writeMode_entry _ s) (fun _ => .rfl) (fun _ => id) (fun _ => ⟨rfl, rfl⟩) ?_ (by simp [writeWord])
      (by simp [writeWord]) (by simp [writeWord]) (by simp [writeWord])
    simp only [writeWord, writeMode]
    rw [(cancelCapture_moves _).request]
    simp
  | timeout => exact ⟨fun _ _ => rfl, fun _ => id, rfl, rfl, fun ⟨_, hn, _, ho, _⟩ => ⟨hn, ho⟩, rfl, rfl, rfl⟩
  | _ => exact .ofBlocks rfl rfl rfl rfl rfl rfl

theorem writeWords_settled (l : List (Option WinWord × Word)) : ∀ s, Settled s (writeWords s l) := by
  induction l with
  | nil => exact .refl
  | cons p l ih =>
    intro s
    rcases p with ⟨_ | x, w⟩ <;> unfold writeWords
    · exact ih s
    · exact (writeWord_stays x w s).settled.trans (ih _)

theorem writeFrame_settled (i : Half) (c : Byte) (ws : List Word) (s : State) : Settled s (writeFrame i c ws s) := by
  refine endFrame_settled ?_
  unfold takeWriteReg
  split
  · split
    · exact writeWords_settled _ s
    · exact .refl s
  · exact .refl s

theorem actionFrame_settled {c : Command} {effect : State → State} (h : ∀ t, Stays t (effect t)) (s : State) :
    Settled s (actionFrame c effect s) := endFrame_settled (h s).settled

theorem latchArm_stays (s : State) : Stays s (latchArm s).2 := by
  unfold latchArm; split <;> exact .ofBlocks rfl rfl rfl rfl rfl rfl

theorem latchDisarm_stays (s : State) : Stays s (latchDisarm s).2 := by
  unfold latchDisarm; split <;> exact .ofBlocks rfl rfl rfl rfl rfl rfl

theorem release_stays (s : State) : Stays s (release s) :=
  (release_moves s).stays (by simp) (by simp) (by simp) (by simp)

/-- R20: a purge frees ORPHANED slots, which owe nothing. -/
theorem purge_stays (s : State) : Stays s (purge s) := by
  refine .mapped (entry_purge s) (fun e => ?_) (fun e h => ?_) (fun e => ?_) (by simp) (by simp) (by simp) (by simp)
    (by simp)
  · unfold Entry.purged
    split
    · next h => simp [Entry.freed, h]
    · exact .rfl
  · simp [Entry.purged, h]
  · unfold Entry.purged; split <;> exact ⟨rfl, rfl⟩

theorem offerEvent_stays (r : Record) (s : State) : Stays s (offerEvent r s) :=
  (offerEvent_moves r s).stays (by simp) (by simp) (by simp) (by simp)

theorem watchCleared_request (s : State) :
    (watchCleared s).rqp.inProcess.map RqpTxn.req = s.rqp.inProcess.map RqpTxn.req := by
  unfold watchCleared
  dsimp only
  rw [(cancelCapture_moves _).request]
  simp

/-- R70, R195: CLEAR_WATCH answers what waits FORWARD and clears the trace fields. -/
theorem clearWatch_stays (s : State) : Stays s (clearWatch s) := by
  have hanswers := clearWatch_moves s
  refine .mapped (clearWatch_entry s) (fun _ => .rfl) (fun _ => id) (fun _ => ⟨rfl, rfl⟩) ?_ (fun hn => ?_)
    (by simp [clearWatch]) (by simp [clearWatch]) (by simp [clearWatch])
  · calc (clearWatch s).rqp.inProcess.map RqpTxn.req
      _ = (forwardResponse (forwardRequest (watchCleared s))).rqp.inProcess.map RqpTxn.req := hanswers.request
      _ = (forwardRequest (watchCleared s)).rqp.inProcess.map RqpTxn.req := (forwardResponse_stays _).request
      _ = (watchCleared s).rqp.inProcess.map RqpTxn.req := (forwardRequest_stays _).request
      _ = s.rqp.inProcess.map RqpTxn.req := watchCleared_request s
  · have hw : (forwardRequest (watchCleared s)).rsp.inProcess = none := by simp [watchCleared, hn]
    rw [hanswers.rsp, show forwardResponse (forwardRequest (watchCleared s)) = forwardRequest (watchCleared s) by
      simp only [forwardResponse, hw], hw]

theorem beginRecord_stays (s : State) : Stays s (beginRecord s) :=
  (beginRecord_moves s).stays (by simp) (by simp) (by simp) (by simp)

theorem freeSlot_stays (s : State) : Stays s (freeSlot s) :=
  (freeSlot_moves s).stays (by simp) (by simp) (by simp) (by simp)

theorem transfer_stays (s : State) : Stays s (transfer s) := by
  unfold transfer
  split
  · split
    · exact freeSlot_stays s
    · exact setTst_stays _ s
  · exact beginRecord_stays s

end Sys2Proof.Machine
namespace Sys2Proof.Machine

/-! ### What a command does to the traffic -/

theorem whenPowered_settled {f : State → State} (hf : ∀ s, Settled s (f s)) {s t : State}
    (h : whenPowered f s = .next t) : Settled s t := by
  unfold whenPowered at h
  cases h
  split
  · exact .refl s
  · exact hf s

theorem whenLinkUp_settled {f : State → State} (hf : ∀ s, Settled s (f s)) {s t : State}
    (h : whenLinkUp f s = .next t) : Settled s t := by
  unfold whenLinkUp at h
  cases h
  split
  · exact hf s
  · exact .refl s

/-- The command takes a request in, hands one down, delivers a response, or drives a reset pin. -/
def movesTraffic : Instr → Bool
  | .upstreamRequestTake _ => true
  | .downstreamRequestTake => true
  | .upstreamResponseTake => true
  | .linkReset => true
  | .linkResetEnd => true
  | .powerOnReset => true
  | .powerOnResetEnd => true
  | _ => false

/-- R171: every other command settles what it does inside the part. -/
theorem exec_settled {c : Instr} {s t : State} (hc : movesTraffic c = false) (h : exec c s = .next t) : Settled s t := by
  cases c with
  | upstreamRequestTake r => cases hc
  | downstreamRequestTake => cases hc
  | upstreamResponseTake => cases hc
  | linkReset => cases hc
  | linkResetEnd => cases hc
  | powerOnReset => cases hc
  | powerOnResetEnd => cases hc
  | takeReport => exact whenPowered_settled takeReport_settled h
  | holdPointPass => exact whenLinkUp_settled (fun s => (passHoldPoint_stays s).settled) h
  | downstreamResponseTake r => exact whenLinkUp_settled (fun s => (takeResponse_stays r s).settled) h
  | rmgBeginOffer => exact whenLinkUp_settled (fun s => (beginUpstreamOffer_stays s).settled) h
  | takeXtInput => exact whenPowered_settled (fun s => (takeXt_stays s).settled) h
  | takeAnInput => exact whenPowered_settled (fun s => (takeAn_stays s).settled) h
  | dwellExpiry => exact whenPowered_settled (fun s => (takeDwell_stays s).settled) h
  | takeArm => exact whenPowered_settled (fun s => (takeArmCommand_stays s).settled) h
  | takeDisarm => exact whenPowered_settled (fun s => (takeDisarmCommand_stays s).settled) h
  | xtrigInEdge => exact whenPowered_settled (f := latchXt) (fun s => (setTsq_stays _ s).settled) h
  | tick => exact whenPowered_settled tickEvent_settled h
  | expiryUnderReport n => exact whenPowered_settled (tickWhen_settled _) h
  | expiryUnderAbandon n => exact whenPowered_settled (tickWhen_settled _) h
  | holdLimitExpiry => exact whenPowered_settled (tickWhen_settled _) h
  | dwellLimitReached => exact whenPowered_settled (tickWhen_settled _) h
  | pulseEnd => exact whenPowered_settled (tickWhen_settled _) h
  | refclkRisingEdge => exact whenPowered_settled refclkEdge_settled h
  | egressRecordBegin => exact whenPowered_settled (fun s => (beginRecord_stays s).settled) h
  | egressSlotFreed => exact whenPowered_settled (fun s => (freeSlot_stays s).settled) h
  | egressTransfer => exact whenPowered_settled (fun s => (transfer_stays s).settled) h
  | frameBegin =>
    simp only [exec, execFrameBegin] at h
    cases h
    split
    · exact (port_stays true s.mgp s).settled
    · exact (beginFrame_stays s).settled
  | aborted =>
    simp only [exec, execAborted] at h
    cases h
    split
    · exact (port_stays false s.mgp s).settled
    · exact (abortFrame_stays s).settled
  | badCommand code => exact whenPowered_settled (endBadCommand_settled code) h
  | sclkRisingEdge bit => exact whenPowered_settled (fun s => (sclkEdge_stays bit s).settled) h
  | readReg i n => exact whenPowered_settled (sendHeader_settled (takeReadReg_stays i n)) h
  | readEntry n => exact whenPowered_settled (sendHeader_settled (takeReadEntry_stays n)) h
  | traceRead n => exact whenPowered_settled (sendHeader_settled (takeTraceRead_stays n)) h
  | readFrameEnd => exact whenPowered_settled (fun s => (endReadFrame_stays s).settled) h
  | traceReadEnd n => exact whenPowered_settled (endTraceRead_settled n) h
  | channelRecordWrite i n ws => exact whenPowered_settled (writeFrame_settled i n ws) h
  | stageRecordWrite i n ws => exact whenPowered_settled (writeFrame_settled i n ws) h
  | timeoutWrite i n ws => exact whenPowered_settled (writeFrame_settled i n ws) h
  | holdLimitWrite i n ws => exact whenPowered_settled (writeFrame_settled i n ws) h
  | divisorWrite i n ws => exact whenPowered_settled (writeFrame_settled i n ws) h
  | modeWrite i n ws => exact whenPowered_settled (writeFrame_settled i n ws) h
  | captureConfigurationWrite i n ws => exact whenPowered_settled (writeFrame_settled i n ws) h
  | thresholdWrite i n ws => exact whenPowered_settled (writeFrame_settled i n ws) h
  | enableWrite i n ws => exact whenPowered_settled (writeFrame_settled i n ws) h
  | maskWrite i n ws => exact whenPowered_settled (writeFrame_settled i n ws) h
  | arm => exact whenPowered_settled (fun s => endFrame_settled (latchArm_stays s).settled) h
  | disarm => exact whenPowered_settled (fun s => endFrame_settled (latchDisarm_stays s).settled) h
  | releaseHold => exact whenPowered_settled (actionFrame_settled release_stays) h
  | purgeOrphans => exact whenPowered_settled (actionFrame_settled purge_stays) h
  | startCapture => exact whenPowered_settled (actionFrame_settled (setCapturing_stays true)) h
  | stopCapture => exact whenPowered_settled (actionFrame_settled (setCapturing_stays false)) h
  | mark v => exact whenPowered_settled (fun s => endFrame_settled (offerEvent_stays _ s).settled) h
  | ackAlert x => exact whenPowered_settled (fun s => endFrame_settled (setAlc_stays _ s).settled) h
  | ackAnomaly => exact whenPowered_settled (actionFrame_settled (fun s => setAns_stays _ s)) h
  | clearMatch => exact whenPowered_settled (actionFrame_settled (fun s => setMu_stays _ s)) h
  | clearWatch => exact whenPowered_settled (actionFrame_settled clearWatch_stays) h

end Sys2Proof.Machine
namespace Sys2Proof.Machine

/-! ### The takes at the link ports (R166, R170, R177) -/

/-- R161, R180: a message passes while both link ports are up; otherwise nothing happens. -/
theorem whenLinkUp_cases {f : State → State} {s t : State} (h : whenLinkUp f s = .next t) :
    (linkUp s = true ∧ t = f s) ∨ (linkUp s = false ∧ t = s) := by
  unfold whenLinkUp at h
  cases h
  cases hl : linkUp s
  · exact .inr ⟨rfl, rfl⟩
  · exact .inl ⟨rfl, rfl⟩

theorem takeRequest_refused {r : Request} {s : State} (h : acceptsRequest s = false) : takeRequest r s = s := by
  simp only [takeRequest, h, Bool.false_eq_true, if_false]

/-- R6, R164: an empty RQP answers PROTOCOL from the reserved position and is empty again. -/
theorem answerProtocol_left {r : Request} {a : Anomaly} {s : State} (h : s.rqp.inProcess = none) :
    (answerProtocol r a s).rqp = s.rqp
      ∧ (answerProtocol r a s).rmg = { s.rmg with queue := s.rmg.queue ++ [answerTo r .protocol] } := by
  refine ⟨?_, by simp [answerProtocol, enqueue]⟩
  simp only [answerProtocol, takeAnomaly_frame, enqueue_frame, setTxn_rqp]
  rw [← h]

theorem evaluateRequest_left (r : Request) (s : State) :
    (evaluateRequest r s).rqp.inProcess.map RqpTxn.req = some r ∧ (evaluateRequest r s).rmg = s.rmg := by
  refine ⟨?_, by simp⟩
  obtain ⟨_, ⟨h, _⟩ | ⟨_, _, h, _⟩⟩ := evaluateRequest_placed r s <;> rw [h] <;> rfl

/-- R166, R168: an accepted request is answered PROTOCOL in the position reserved for it, or stands in RQP. -/
theorem takeRequest_accepted {r : Request} {s : State} (h : acceptsRequest s = true) :
    s.rqp.inProcess = none ∧ s.rmg.queue.length < Config.queuePositions
      ∧ ((takeRequest r s).rqp = s.rqp
          ∧ (takeRequest r s).rmg = { s.rmg with queue := s.rmg.queue ++ [answerTo r .protocol] }
        ∨ (takeRequest r s).rqp.inProcess.map RqpTxn.req = some r ∧ (takeRequest r s).rmg = s.rmg) := by
  have ha := h
  simp only [acceptsRequest, Bool.and_eq_true, Option.isNone_iff_eq_none, positionFree_iff] at h
  obtain ⟨⟨⟨hn, _⟩, _⟩, hroom⟩ := h
  rw [reservedPositions_none hn] at hroom
  refine ⟨hn, hroom, ?_⟩
  simp only [takeRequest, ha, if_true]
  split
  · exact .inl (answerProtocol_left hn)
  · split
    · exact .inl (answerProtocol_left hn)
    · exact .inr (evaluateRequest_left r s)

theorem takeRequest_frame (r : Request) (s : State) :
    (takeRequest r s).pending = s.pending ∧ (takeRequest r s).pins = s.pins := by
  unfold takeRequest; (repeat' split) <;> simp

theorem takeDownstream_frame (s : State) :
    (takeDownstream s).pending = s.pending ∧ (takeDownstream s).pins = s.pins := by
  unfold takeDownstream; (repeat' split) <;> simp

theorem takeUpstream_frame (s : State) :
    (takeUpstream s).pending = s.pending ∧ (takeUpstream s).pins = s.pins := by
  unfold takeUpstream; split <;> simp

theorem linkReset_frame (s : State) :
    (linkReset s).pending = s.pending ∧ (linkReset s).pins = { s.pins with lrst := true } := by
  simp [linkReset]

theorem settleRoom_stays (s : State) : Stays s (settleRoom s) :=
  (settleRoom_moves s).stays (by simp) (by simp) (by simp) (by simp)

/-! ### The bound of the queue (R175) -/

theorem takeRequest_bound {r : Request} {s : State} (hb : QueueWithinBound s) : QueueWithinBound (takeRequest r s) := by
  cases ha : acceptsRequest s
  · rwa [takeRequest_refused ha]
  · obtain ⟨hn, hroom, ⟨hq, hm⟩ | ⟨_, hm⟩⟩ := takeRequest_accepted (r := r) ha <;> unfold QueueWithinBound <;> rw [hm]
    · rw [reservedPositions_none (by rw [hq, hn]), List.length_append]
      exact hroom
    · have hres : reservedPositions (takeRequest r s) ≤ 1 := by unfold reservedPositions; split <;> omega
      omega

theorem takeDownstream_bound {s : State} (hb : QueueWithinBound s) : QueueWithinBound (takeDownstream s) := by
  by_cases ho : ∃ t n, s.rqp.inProcess = some t ∧ t.phase = .offered n
  · obtain ⟨t, n, ht, hp⟩ := ho
    rw [takeDownstream_eq ht hp]
    refine (makeClaims_settled _).bound ?_
    have hm : (takenDown t n s).rmg = s.rmg := by simp [takenDown]
    unfold QueueWithinBound at hb ⊢
    rw [hm, reservedPositions_none rfl]
    omega
  · rwa [takeDownstream_none (fun t n ht hp => ho ⟨t, n, ht, hp⟩)]

/-- R9: a retirement leaves the queue and the reservation of RQP alone. -/
theorem retire_bound {s : State} (hb : QueueWithinBound s) : QueueWithinBound (retire s) := by
  cases hx : s.rsp.inProcess with
  | none => rwa [retire_none hx]
  | some x =>
    rw [retire_eq hx]
    exact (settleRoom_stays _).settled.bound hb

theorem takeUpstream_bound {s : State} (hb : QueueWithinBound s) : QueueWithinBound (takeUpstream s) := by
  unfold takeUpstream
  split
  · exact retire_bound hb
  · refine (claimAtReport_settled _).bound ?_
    unfold QueueWithinBound at hb ⊢
    exact Nat.le_trans (Nat.add_le_add_right (by simp) _) hb
  · exact hb

theorem exec_bound {c : Instr} {s t : State} (hb : QueueWithinBound s) (h : exec c s = .next t) : QueueWithinBound t := by
  cases c with
  | upstreamRequestTake r =>
    obtain ⟨_, rfl⟩ | ⟨_, rfl⟩ := whenLinkUp_cases h
    · exact takeRequest_bound hb
    · exact hb
  | downstreamRequestTake =>
    obtain ⟨_, rfl⟩ | ⟨_, rfl⟩ := whenLinkUp_cases h
    · exact takeDownstream_bound hb
    · exact hb
  | upstreamResponseTake =>
    obtain ⟨_, rfl⟩ | ⟨_, rfl⟩ := whenLinkUp_cases h
    · exact takeUpstream_bound hb
    · exact hb
  | linkReset =>
    cases h
    split
    · exact hb
    · split
      · exact hb
      · exact (linkReset_quiet s).queueWithinBound
  | linkResetEnd => cases h; exact hb
  | powerOnReset => cases h; exact (powerOn_quiet s).queueWithinBound
  | powerOnResetEnd => cases h; exact hb
  | _ => exact (exec_settled rfl h).bound hb

/-- A step takes the command in front, or none. -/
theorem step_cases {s t : State} (h : step s = .next t) :
    (s.pending = [] ∧ t = s) ∨ ∃ c rest, s.pending = c :: rest ∧ exec c (s.setPending rest) = .next t := by
  unfold step at h
  split at h
  · next hq => cases h; exact .inl ⟨hq, rfl⟩
  · next c rest hq => exact .inr ⟨c, rest, hq, h⟩

/-- Settles O54: what is settled inside the part takes no position but one that is free or reserved for it; a request is
taken only with a position left (R166), and the takes of requests and responses release theirs. -/
theorem everyStepKeepsTheQueueWithinBound : Obligations.EveryStepKeepsTheQueueWithinBound := by
  intro s t hb h
  obtain ⟨_, rfl⟩ | ⟨c, rest, _, hx⟩ := step_cases h
  · exact hb
  · exact exec_bound (s := s.setPending rest) hb hx

/-! ### Every command ends in a next state (R161, R188) -/

theorem exec_next (c : Instr) (s : State) : ∃ t, exec c s = .next t := by
  cases c <;> exact ⟨_, rfl⟩

theorem exec_pending {c : Instr} {s t : State} (h : exec c s = .next t) : t.pending = s.pending := by
  cases c with
  | upstreamRequestTake r =>
    obtain ⟨_, rfl⟩ | ⟨_, rfl⟩ := whenLinkUp_cases h
    · exact (takeRequest_frame r s).1
    · rfl
  | downstreamRequestTake =>
    obtain ⟨_, rfl⟩ | ⟨_, rfl⟩ := whenLinkUp_cases h
    · exact (takeDownstream_frame s).1
    · rfl
  | upstreamResponseTake =>
    obtain ⟨_, rfl⟩ | ⟨_, rfl⟩ := whenLinkUp_cases h
    · exact (takeUpstream_frame s).1
    · rfl
  | linkReset =>
    cases h
    split
    · rfl
    · split
      · rfl
      · exact (linkReset_frame s).1
  | linkResetEnd => cases h; rfl
  | powerOnReset => cases h; rfl
  | powerOnResetEnd => cases h; rfl
  | _ => exact (exec_settled rfl h).pending

/-- Settles O2: every arm of `exec` answers a next state, and no operation writes the queue of waiting commands. -/
theorem nothingStopsThePart : Obligations.NothingStopsThePart := by
  refine ⟨fun c s => ?_, fun s hq => ?_⟩
  · obtain ⟨t, ht⟩ := exec_next c s
    exact ⟨t, ht, exec_pending ht⟩
  · simp only [step, hq]

/-! ### The resets in force (R179, R180, R199) -/

theorem whenPowered_held {f : State → State} {s : State} (h : s.pins.porst = true) : whenPowered f s = .next s := by
  simp only [whenPowered, h, if_true]

theorem whenLinkUp_held {f : State → State} {s : State} (h : s.pins.porst = true) : whenLinkUp f s = .next s := by
  simp [whenLinkUp, linkUp, h]

/-- R180, R199: with PORST_N asserted and every block in its power-on state a command changes pins alone. -/
theorem exec_held {s : State} (c : Instr) (hs : s = powerOn s) : ∃ p, exec c s = .next (s.setPins p) := by
  have hp : s.pins.porst = true := by rw [hs]; rfl
  cases c with
  | upstreamRequestTake r => exact ⟨s.pins, whenLinkUp_held hp⟩
  | holdPointPass => exact ⟨s.pins, whenLinkUp_held hp⟩
  | downstreamRequestTake => exact ⟨s.pins, whenLinkUp_held hp⟩
  | downstreamResponseTake r => exact ⟨s.pins, whenLinkUp_held hp⟩
  | rmgBeginOffer => exact ⟨s.pins, whenLinkUp_held hp⟩
  | upstreamResponseTake => exact ⟨s.pins, whenLinkUp_held hp⟩
  | linkReset => exact ⟨_, congrArg _ (if_pos hp)⟩
  | linkResetEnd => exact ⟨_, rfl⟩
  | powerOnReset => exact ⟨s.pins, congrArg _ hs.symm⟩
  | powerOnResetEnd => exact ⟨_, rfl⟩
  | aborted => exact ⟨_, congrArg _ (if_pos hp)⟩
  | frameBegin => exact ⟨_, congrArg _ (if_pos hp)⟩
  | _ => exact ⟨s.pins, whenPowered_held hp⟩

theorem powerOn_setPins {p : Pins} (s : State) (hp : p.porst = true) :
    (powerOn s).setPins p = powerOn (s.setPins p) := by
  obtain ⟨porst, lrst, cs⟩ := p
  cases hp
  rfl

/-- R179, R199: blocks in their power-on state stay so, whatever becomes of the pins. -/
theorem resetsInForce_setPins {s : State} (p : Pins) (hs : s = powerOn s) :
    HeldAtPowerOn (s.setPins p) ∧ LinksQuiet (s.setPins p) := by
  have hq : Quiet s := by rw [hs]; exact powerOn_quiet s
  exact ⟨fun hp => (congrArg (State.setPins p) hs).trans (powerOn_setPins s hp),
    fun _ => ⟨hq.rqp, hq.rsp, hq.queue, hq.offer, hq.slots⟩⟩

/-- R180: the links that a message passes are up, so neither reset is in force before or after. -/
theorem resetsInForce_take {f : State → State} {s t : State} (hf : (f s).pins = s.pins) (hs : HeldAtPowerOn s ∧ LinksQuiet s)
    (h : whenLinkUp f s = .next t) : HeldAtPowerOn t ∧ LinksQuiet t := by
  obtain ⟨hl, rfl⟩ | ⟨_, rfl⟩ := whenLinkUp_cases h
  · obtain ⟨hp, hr⟩ := linkUp_iff.1 hl
    unfold HeldAtPowerOn LinksQuiet
    rw [hf, hp, hr]
    exact ⟨nofun, nofun⟩
  · exact hs

theorem exec_resetsInForce {c : Instr} {s t : State} (hp : s.pins.porst = false) (hs : HeldAtPowerOn s ∧ LinksQuiet s)
    (h : exec c s = .next t) : HeldAtPowerOn t ∧ LinksQuiet t := by
  have hheld : ∀ {u : State}, u.pins.porst = false → HeldAtPowerOn u := fun hu hx => absurd (hu.symm.trans hx) nofun
  cases c with
  | upstreamRequestTake r => exact resetsInForce_take (takeRequest_frame r s).2 hs h
  | downstreamRequestTake => exact resetsInForce_take (takeDownstream_frame s).2 hs h
  | upstreamResponseTake => exact resetsInForce_take (takeUpstream_frame s).2 hs h
  | linkReset =>
    simp only [exec, execLinkReset, hp, Bool.false_eq_true, if_false] at h
    cases h
    split
    · exact hs
    · exact ⟨hheld (by rw [(linkReset_frame s).2, hp]), (linkReset_quiet s).linksQuiet⟩
  | linkResetEnd => cases h; exact ⟨hheld hp, nofun⟩
  | powerOnReset => cases h; exact ⟨fun _ => rfl, (powerOn_quiet s).linksQuiet⟩
  | powerOnResetEnd => cases h; exact ⟨hheld rfl, hs.2⟩
  | _ =>
    have hd := exec_settled rfl h
    exact ⟨hheld (hd.porst.trans hp), fun hl => hd.empty (hs.2 (hd.lrst ▸ hl))⟩

/-- Settles O59: with PORST_N asserted only pins change; with it deasserted the links stay empty while LRST_N is asserted,
since nothing is taken in and what is settled inside the part comes from what is there. -/
theorem everyStepKeepsTheResetsInForce : Obligations.EveryStepKeepsTheResetsInForce := by
  intro s t hs h
  obtain ⟨_, rfl⟩ | ⟨c, rest, _, hx⟩ := step_cases h
  · exact hs
  · have hs' : HeldAtPowerOn (s.setPending rest) ∧ LinksQuiet (s.setPending rest) :=
      ⟨fun hp => congrArg (State.setPending rest) (hs.1 hp), hs.2⟩
    generalize s.setPending rest = u at hs' hx
    cases hp : u.pins.porst
    · exact exec_resetsInForce hp hs' hx
    · obtain ⟨p, hu⟩ := exec_held c (hs'.1 hp)
      rw [hx] at hu
      cases hu
      exact resetsInForce_setPins p (hs'.1 hp)

end Sys2Proof.Machine
namespace Sys2Proof.Machine

/-! ### One response for each request (R171) -/

/-- R171: what is owed moves between the blocks: the sum is what counts. -/
theorem owed_eq (p : Pair) (s : State) : owed p s = owedByRqp p s + owedByOtt p s + owedByRmg p s := rfl

/-- R5, R170: the allocated entry owes the response that the request in RQP owed; its slot was FREE. -/
theorem takenDown_owed {t : RqpTxn} {n : Fin 64} {s : State} (p : Pair) (ht : s.rqp.inProcess = some t)
    (hf : (entry s n).state = .free) : owed p (takenDown t n s) = owed p s := by
  have hrmg : owedByRmg p (takenDown t n s) = owedByRmg p s := owedByRmg_congr (by simp [takenDown])
  have hott := owedByOtt_slot (p := p) (n := n) (s := s) (t := takenDown t n s)
    (fun m hm => by rw [(entry_takenDown t n s m).1 hm])
  obtain ⟨b, k, he⟩ := (entry_takenDown t n s n).2 rfl
  rw [he, Entry.owes_of_not_live (by rw [hf]; nofun), Entry.owes_of_live rfl] at hott
  rw [owed_eq, owed_eq, owedByRqp_none (s := takenDown t n s) rfl, owedByRqp_some ht, hrmg]
  by_cases hp : (t.req.initiator, t.req.tag) = p <;> simp [allocated, hp] at hott ⊢ <;> omega

theorem takeDownstream_owed {s : State} (p : Pair) (hpaths : PathsAgreeWithTable s) :
    owed p (takeDownstream s) = owed p s := by
  obtain ⟨_, hselected, _⟩ := hpaths
  by_cases ho : ∃ t n, s.rqp.inProcess = some t ∧ t.phase = .offered n
  · obtain ⟨t, n, ht, hp⟩ := ho
    rw [takeDownstream_eq ht hp, (makeClaims_settled _).owed p, takenDown_owed p ht (hselected t n ht hp)]
  · rw [takeDownstream_none (fun t n ht hp => ho ⟨t, n, ht, hp⟩)]

/-- R166: an accepted request is owed a response, in the queue or for RQP's request. -/
theorem takeRequest_owed {r : Request} {s : State} (p : Pair) (ha : acceptsRequest s = true) :
    owed p (takeRequest r s) = owed p s + if (r.initiator, r.tag) = p then 1 else 0 := by
  obtain ⟨hn, _, hleft⟩ := takeRequest_accepted (r := r) ha
  have hott : owedByOtt p (takeRequest r s) = owedByOtt p s := owedByOtt_congr fun n => by
    rw [entry_congr (takeRequest_ott r s)]
  rw [owed_eq, owed_eq, hott]
  obtain ⟨hrqp, hrmg⟩ | ⟨hreq, hrmg⟩ := hleft
  · have hqueue : owedByRmg p (takeRequest r s) = owedByRmg p s + if (r.initiator, r.tag) = p then 1 else 0 :=
      owedByRmg_enqueued (congrArg Rmg.queue hrmg)
    rw [owedByRqp_congr (s := s) (by rw [hrqp]), hqueue]
    omega
  · obtain ⟨x, hx, rfl⟩ := Option.map_eq_some_iff.1 hreq
    rw [owedByRqp_some hx, owedByRqp_none hn, owedByRmg_congr (congrArg Rmg.queue hrmg)]
    omega

/-- R9: a retirement settles what its LIVE entry owed. -/
theorem retired_owed {x : RspTxn} {s : State} (p : Pair) (hl : (entry s x.slot).state = .live) :
    owed p (retired x s) + (if ((entry s x.slot).initiator, (entry s x.slot).tag) = p then 1 else 0) = owed p s := by
  have hrqp : owedByRqp p (retired x s) = owedByRqp p s := rfl
  have hrmg : owedByRmg p (retired x s) = owedByRmg p s := rfl
  have hott := owedByOtt_slot (p := p) (n := x.slot) (s := s) (t := retired x s)
    (fun m hm => by rw [entry_retired, if_neg hm])
  rw [entry_retired, if_pos rfl, Entry.owes_of_live hl, Entry.owes_of_not_live (by simp [Entry.freed])] at hott
  rw [owed_eq, owed_eq, hrqp, hrmg]
  by_cases hp : ((entry s x.slot).initiator, (entry s x.slot).tag) = p <;> simp [hp] at hott ⊢ <;> omega

/-- R163, R177: the response that RSP offers carries the pair of its LIVE entry. -/
theorem rspAnswer_pair {s : State} (hpaths : PathsAgreeWithTable s) (hformed : ResponsesWellFormed s)
    (ho : s.rmg.offer = some .rsp) : ∃ x a, s.rsp.inProcess = some x ∧ rspAnswer s = some a
      ∧ (entry s x.slot).state = .live ∧ a.initiator = (entry s x.slot).initiator ∧ a.tag = (entry s x.slot).tag := by
  obtain ⟨hlive, _, _, hoffer, _⟩ := hpaths
  obtain ⟨_, _, hanswer⟩ := hformed
  have ha := hoffer ho
  cases hx : s.rsp.inProcess with
  | none => simp [rspAnswer, hx] at ha
  | some x =>
    cases hp : x.phase with
    | checks => simp [rspAnswer, hx, hp] at ha
    | verdictWait => simp [rspAnswer, hx, hp] at ha
    | offered a =>
      refine ⟨x, a, rfl, by simp only [rspAnswer, hx, hp], hlive x hx, ?_⟩
      obtain rfl | rfl := hanswer x a hx hp <;> exact ⟨rfl, rfl⟩

/-- R177: the delivery of a response settles one for its pair, and nothing else. -/
theorem takeUpstream_owed {s : State} (p : Pair) (hpaths : PathsAgreeWithTable s) (hformed : ResponsesWellFormed s) :
    owed p (takeUpstream s) + deliveredTo p s = owed p s := by
  cases ho : s.rmg.offer with
  | none => simp [takeUpstream, deliveredTo, upstreamOffer, ho]
  | some source =>
    cases source with
    | rsp =>
      obtain ⟨x, a, hx, ha, hl, hi, ht⟩ := rspAnswer_pair hpaths hformed ho
      have hd : deliveredTo p s = if ((entry s x.slot).initiator, (entry s x.slot).tag) = p then 1 else 0 := by
        simp only [deliveredTo, upstreamOffer, ho, ha, hi, ht]
      rw [takeUpstream_rsp ho hx, (settleRoom_stays _).settled.owed p, hd]
      exact retired_owed (s := offerTaken s.rmg.queue .queue s) p hl
    | queue =>
      obtain ⟨_, _, _, _, hqueue⟩ := hpaths
      obtain ⟨r, rest, hq⟩ := List.exists_cons_of_ne_nil (hqueue ho)
      have hd : deliveredTo p s = if (r.initiator, r.tag) = p then 1 else 0 := by
        simp only [deliveredTo, upstreamOffer, ho, hq, List.head?_cons]
      have hrmg : owedByRmg p s = owedByRmg p (offerTaken rest .rsp s) + if (r.initiator, r.tag) = p then 1 else 0 := by
        simp [owedByRmg, hq, offerTaken, List.countP_cons]
      rw [takeUpstream_queue ho hq, (claimAtReport_settled _).owed p, hd, owed_eq, owed_eq, hrmg,
        show owedByRqp p (offerTaken rest .rsp s) = owedByRqp p s from rfl,
        show owedByOtt p (offerTaken rest .rsp s) = owedByOtt p s from rfl]
      omega

/-- Settles O60: what is owed for a pair goes with the request from RQP into the table and on into the queue, and
leaves the part with a response to the pair alone (R5, R9, R16, R86, R164). -/
theorem everyRequestIsAnsweredOnce : Obligations.EveryRequestIsAnsweredOnce := by
  intro p s hpaths hformed
  refine ⟨fun c t h hrequest hupstream hlink hpower => ?_, fun r t h => ?_, fun t hup h => ?_⟩
  · cases c with
    | upstreamRequestTake r => exact absurd rfl (hrequest r)
    | upstreamResponseTake => exact absurd rfl hupstream
    | linkReset => exact absurd rfl hlink
    | powerOnReset => exact absurd rfl hpower
    | downstreamRequestTake =>
      obtain ⟨_, rfl⟩ | ⟨_, rfl⟩ := whenLinkUp_cases h
      · exact takeDownstream_owed p hpaths
      · rfl
    | linkResetEnd => cases h; rfl
    | powerOnResetEnd => cases h; rfl
    | _ => exact (exec_settled rfl h).owed p
  · obtain ⟨hl, rfl⟩ | ⟨hl, rfl⟩ := whenLinkUp_cases h
    · cases ha : acceptsRequest s
      · simp [takeRequest_refused ha, takenFor, upstreamRequestReady, ha]
      · rw [takeRequest_owed p ha]
        simp [takenFor, upstreamRequestReady, hl, ha]
    · simp [takenFor, upstreamRequestReady, hl]
  · rw [exec_upstreamResponseTake hup] at h
    cases h
    exact takeUpstream_owed p hpaths hformed

end Sys2Proof.Machine

/-! PROOFS. The takes and refusals of the link ports, and the begin of an upstream offer (R6, R30, R141, R164 to R168,
R173, R177). -/
namespace Sys2Proof.Machine

/-! ### Requests that are refused for now or answered at the take (R6, R164, R166 to R168) -/

/-- R166, R167: where a condition of acceptance fails the take leaves the part as it is. -/
theorem exec_upstreamRequestTake_refused {r : Request} {s : State} (h : ¬ Accepting s) :
    exec (.upstreamRequestTake r) s = .next s := by
  show whenLinkUp (takeRequest r) s = .next s
  unfold whenLinkUp
  split
  · next hl =>
    have ha : acceptsRequest s = false := by
      rw [← Bool.not_eq_true]
      exact fun ha => h (acceptsRequest_iff.1 ⟨linkUp_iff.1 hl, ha⟩)
    rw [takeRequest_refused ha]
  · rfl

/-- Settles O8: the take is guarded by the links and the conditions of acceptance. -/
theorem aRequestRefusedForNowLeavesNoTrace : Obligations.ARequestRefusedForNowLeavesNoTrace :=
  fun _ _ h => exec_upstreamRequestTake_refused h

/-- R41: the evaluation of a request that meets no channel. -/
theorem evaluateRequest_unmatched {r : Request} {s : State} (h : ∀ n, ¬ Matches s (watchedRequest r) n) :
    evaluateRequest r s = setTxn (some { req := r, phase := .holdPoint, hits := 0, decided := false }) s := by
  simp only [evaluateRequest, hitSet_eq_zero.2 h, if_true, recordHits_zero]

/-- Settles O5: the checks pass, so the request is evaluated, and with an empty hit set it goes to the hold point. -/
theorem aRequestWithoutHitsGoesToTheHoldPoint : Obligations.ARequestWithoutHitsGoesToTheHoldPoint := by
  intro r s ha hl hf hno
  rw [exec_upstreamRequestTake_evaluates ha hl hf, evaluateRequest_unmatched hno]
  rfl

theorem exec_upstreamRequestTake_accepting {r : Request} {s : State} (ha : Accepting s) :
    exec (.upstreamRequestTake r) s = .next (takeRequest r s) := whenLinkUp_up ha.1

/-- R164: a malformed request is answered before every other check. -/
theorem takeRequest_malformed {r : Request} {s : State} (ha : acceptsRequest s = true) (hl : ¬ Legal r) :
    takeRequest r s = answerProtocol r (requestAnomaly .malformedRequest slotNone r) s := by
  simp only [takeRequest, ha, not_legal_iff.2 hl, if_true]

/-- R6: a legal request whose pair a LIVE entry holds is answered with that entry's slot. -/
theorem takeRequest_duplicate {r : Request} {n : Fin 64} {s : State} (ha : acceptsRequest s = true) (hl : Legal r)
    (hd : duplicateOf r s = some n) :
    takeRequest r s = answerProtocol r (requestAnomaly .duplicateTag (slotCode n) r) s := by
  simp only [takeRequest, ha, legal_iff.2 hl, hd, if_true, Bool.false_eq_true, if_false]

/-- R141, R164: with the answer in the queue, the anomaly is taken as if nothing else had happened. -/
theorem answerProtocol_taken (r : Request) (a : Anomaly) (s : State) :
    AnomalyTaken a s (answerProtocol r a s) ∧ AnomalyRecorded a s (answerProtocol r a s) :=
  ⟨(takeAnomaly_taken a (enqueue (answerTo r .protocol) (setTxn none s))).of_eq rfl rfl rfl rfl rfl rfl,
    (takeAnomaly_recorded a (enqueue (answerTo r .protocol) (setTxn none s))).of_eq rfl rfl rfl (Nat.le_refl _) rfl rfl⟩

/-- Settles O7: either check ends in the answer PROTOCOL with its anomaly, and the LIVE pairs being distinct the slot
named is the one there is. -/
theorem illegalRequestsAreAnsweredProtocol : Obligations.IllegalRequestsAreAnsweredProtocol := by
  intro r a s hacc h
  have hx := exec_upstreamRequestTake_accepting (r := r) hacc
  obtain ⟨_, ha⟩ := acceptsRequest_iff.2 hacc
  have hanswer : takeRequest r s = answerProtocol r a s := by
    obtain ⟨hl, rfl⟩ | ⟨hl, hdistinct, n, hlive, hi, ht, rfl⟩ := h
    · exact takeRequest_malformed ha hl
    · exact takeRequest_duplicate ha hl (duplicateOf_distinct hdistinct ⟨hlive, hi, ht⟩)
  rw [hanswer] at hx
  obtain ⟨hrqp, hrmg⟩ := answerProtocol_left (r := r) (a := a) hacc.2.1
  obtain ⟨htaken, hrecorded⟩ := answerProtocol_taken r a s
  exact ⟨_, hx, hrmg, htaken, hrecorded, hrqp, by simp, by simp, by simp, by simp, by simp, by simp, by simp⟩

/-! ### A response with a wrong data beat count (R30, R99, R173) -/

/-- R173: the form check fails: the anomaly is taken, and a FAULT without data is evaluated. -/
theorem takeMatched_malformed {n : Fin 64} {r : Response} {s : State}
    (h : r.beats.length ≠ expectedBeats (entry s n).kind (entry s n).lenM1 r.status) :
    takeMatched n r s = evaluateResponse n .fault [] (takeAnomaly (entryAnomaly .malformedResponse n (entry s n))
      (s.setRsp { inProcess := some { slot := n, phase := .checks, status := r.status, data := r.beats } })) := by
  simp only [takeMatched, h, if_false]

/-- R30: channels and bound entry are those before the anomaly, so the evaluation meets the same channels. -/
theorem matches_congr {n : Fin 64} {st : DownStatus} {d : List BeatData} {k : Fin 8} {s t : State}
    (hott : t.ott = s.ott) (hmu : t.mu = s.mu) :
    Matches t (watchedResponse (entry t n) st d) k ↔ Matches s (watchedResponse (entry s n) st d) k := by
  unfold Matches
  rw [entry_congr hott, hmu]

/-- What `AnomalyTaken` says of its second state reads the blocks ANS and TSQ, the pending cause ANOMALY and, in the
mode OFF, TST and TCU. -/
theorem AnomalyTaken.then {a : Anomaly} {s t u : State} (h : AnomalyTaken a s t) (hans : u.ans = t.ans)
    (htsq : u.tsq = t.tsq) (hpending : u.alc.pending.getLsbD 1 = t.alc.pending.getLsbD 1)
    (hoff : modeOf s = .off → u.tst = t.tst ∧ u.tcu = t.tcu) : AnomalyTaken a s u := by
  obtain ⟨hflags, hcount, hcounts, hfirst, han, halert, hlatch, hcause, hstore⟩ := h
  simp only [AnomalyTaken, hans, htsq, hpending]
  refine ⟨hflags, hcount, hcounts, hfirst, han, halert, hlatch, hcause, fun ho => ?_⟩
  rw [(hoff ho).1, (hoff ho).2]
  exact hstore ho

/-- R101: in the mode OFF the answer to a response leaves TST and TCU alone. -/
theorem answerResponse_off {f : Bool} {s : State} (h : modeOf s = .off) :
    (answerResponse f s).tst = s.tst ∧ (answerResponse f s).tcu = s.tcu := by
  unfold answerResponse
  split
  · dsimp only
    split
    · rw [offerRecord_off h]
      exact ⟨rfl, rfl⟩
    · exact ⟨rfl, rfl⟩
  · exact ⟨rfl, rfl⟩

/-- R141: the anomaly `a` has been taken, and apart from RSP nothing else has happened. -/
structure TookOnly (a : Anomaly) (s v : State) : Prop where
  taken : AnomalyTaken a s v
  recorded : AnomalyRecorded a s v
  ott : v.ott = s.ott
  mu : v.mu = s.mu
  rqp : v.rqp = s.rqp
  rmg : v.rmg = s.rmg
  tbs : v.tbs = s.tbs
  pulse : v.pulse = s.pulse
  mgp : v.mgp = s.mgp
  pins : v.pins = s.pins
  capture : v.tcu.capture = s.tcu.capture

theorem takeAnomaly_tookOnly (a : Anomaly) (y : Rsp) (s : State) : TookOnly a s (takeAnomaly a (s.setRsp y)) where
  taken := (takeAnomaly_taken a (s.setRsp y)).of_eq rfl rfl rfl rfl rfl rfl
  recorded := (takeAnomaly_recorded a (s.setRsp y)).of_eq rfl rfl rfl (Nat.le_refl _) rfl rfl
  ott := by simp
  mu := by simp
  rqp := by simp
  rmg := by simp
  tbs := by simp
  pulse := by simp
  mgp := by simp
  pins := by simp
  capture := takeAnomaly_capture a _

theorem TookOnly.setRsp {a : Anomaly} {s v : State} (h : TookOnly a s v) (y : Rsp) : TookOnly a s (v.setRsp y) where
  taken := h.taken
  recorded := h.recorded.of_eq rfl rfl rfl (Nat.le_refl _) rfl rfl
  ott := h.ott
  mu := h.mu
  rqp := h.rqp
  rmg := h.rmg
  tbs := h.tbs
  pulse := h.pulse
  mgp := h.mgp
  pins := h.pins
  capture := h.capture

/-- R98, R99, R101, R174: the anomaly taken, the response in process is answered FAULT: an untraced entry leaves the
ANOMALY record alone, a traced one gets its RESPONSE record behind it. -/
theorem TookOnly.answered {a : Anomaly} {x : RspTxn} {s v : State} (h : TookOnly a s v) (hx : v.rsp.inProcess = some x)
    (hfault : x.status = .fault) :
    AnomalyTaken a s (answerResponse false v)
    ∧ ((entry s x.slot).traced = false →
      (answerResponse false v).ott = s.ott ∧ AnomalyRecorded a s (answerResponse false v))
    ∧ ((entry s x.slot).traced = true → RecordThenResponse (anomalyRecord a s.tbs.timestamp)
        (entryRecord .fault none x.slot s) x.slot s (answerResponse false v)) := by
  obtain ⟨-, huntraced, htraced, -⟩ := answerResponse_forwarded hx
  have hoff : modeOf s = .off → modeOf v = .off := fun ho => by
    obtain ⟨-, -, -, -, -, -, -, -, hstore⟩ := h.taken
    rw [modeOf_congr (hstore ho).1, ho]
  refine ⟨h.taken.then (by simp) (by simp) ((answerResponse_kept false v).2 1 (by decide) (by decide))
    fun ho => answerResponse_off (hoff ho), fun ht => ?_, fun ht => ?_⟩
  · obtain ⟨ho, htst, htcu, -⟩ := huntraced (by rw [entry_congr h.ott, ht])
    exact ⟨ho.trans h.ott, h.recorded.of_eq rfl rfl rfl (Nat.le_refl _) htst.symm htcu.symm⟩
  · have hresponse := htraced (by rw [entry_congr h.ott, ht])
    simp only [recordedBeat, hfault, reduceCtorEq, false_and, if_false, entryRecord_congr h.ott h.tbs] at hresponse
    exact .of_offers h.recorded h.ott h.tbs h.capture hresponse

/-- Settles O14: the form check takes the anomaly and evaluates FAULT without data; without hits it is answered at once
(R174), with hits it is reported (R51). -/
theorem aMalformedResponseGoesOnAsFault : Obligations.AMalformedResponseGoesOnAsFault := by
  intro r n s a hm hb ha
  have hx := exec_downstreamResponseTake hm.1 r
  rw [takeResponse_matched hm, takeMatched_malformed hb, show entryAnomaly .malformedResponse n (entry s n) = a from ha.symm]
    at hx
  generalize ({ inProcess := some ⟨n, .checks, r.status, r.beats⟩ } : Rsp) = y at hx
  have htook := takeAnomaly_tookOnly a y s
  generalize takeAnomaly a (s.setRsp y) = v at hx htook
  have hmatches : ∀ k, Matches v (watchedResponse (entry v n) .fault []) k
      ↔ Matches s (watchedResponse (entry s n) .fault []) k := fun _ => matches_congr htook.ott htook.mu
  refine ⟨fun hno => ?_, fun hhit => ?_⟩
  · rw [evaluateResponse_unmatched fun k hk => hno k ((hmatches k).1 hk)] at hx
    have hw := htook.setRsp { inProcess := some ⟨n, .checks, .fault, []⟩ }
    generalize hv : v.setRsp { inProcess := some ⟨n, .checks, .fault, []⟩ } = w at hx hw
    have hin : w.rsp.inProcess = some ⟨n, .checks, .fault, []⟩ := by rw [← hv]; rfl
    obtain ⟨hanswer, -, -, hmu, hrqp, hrmg, -, htbs, hpulse, hmgp, hpins⟩ := answerResponse_forwarded hin
    rw [entry_congr hw.ott] at hanswer
    exact ⟨_, hx, hanswer, hmu.trans hw.mu, hrqp.trans hw.rqp, hrmg.trans hw.rmg, htbs.trans hw.tbs,
      hpulse.trans hw.pulse, hmgp.trans hw.mgp, hpins.trans hw.pins, hw.answered hin rfl⟩
  · obtain ⟨k, hk⟩ := hhit
    rw [evaluateResponse_hits ⟨k, (hmatches k).2 hk⟩] at hx
    generalize hhits : hitSet v.mu.channels (watchedResponse (entry v n) .fault []) = hits at hx
    have hbit : ∀ j : Fin 8, hits.getLsbD j.val = true ↔ Matches s (watchedResponse (entry s n) .fault []) j :=
      fun j => by rw [← hhits, hitSet_bit]; exact hmatches j
    refine ⟨_, hits, hx, hbit, fun j => ?_, rfl, rfl, ?_, ?_, htook.ott, htook.rqp, htook.rmg, htook.tbs, htook.pulse,
      htook.mgp, htook.pins⟩
    · rw [← htook.mu]
      exact recordHits_channel hits v j
    · refine htook.taken.then rfl ?_ rfl fun _ => ⟨rfl, rfl⟩
      obtain ⟨-, -, -, -, -, -, htsq, -⟩ := htook.taken
      rw [htsq]
    · exact htook.recorded.of_eq rfl rfl rfl (Nat.le_refl _) rfl rfl

/-! ### The begin of an upstream offer (R177) -/

/-- Settles O16: an offer in progress is kept, and otherwise the source chosen is the one that has a response. -/
theorem rmgOffersAsThePointerNames : Obligations.RmgOffersAsThePointerNames := by
  intro s hl
  have hx : exec .rmgBeginOffer s = .next (beginUpstreamOffer s) := whenLinkUp_up hl
  cases hoffer : s.rmg.offer with
  | some source =>
    refine ⟨some source, ?_, fun _ => rfl, by simp⟩
    rw [hx, beginUpstreamOffer, if_neg (by simp [hoffer]), ← hoffer]
  | none =>
    refine ⟨nextSource s, ?_, fun h => absurd rfl h, fun _ ha hq => ?_, fun _ ha hq => ?_, fun _ ha hq => ?_,
      fun _ ha hq => ?_⟩
    · rw [hx, beginUpstreamOffer, hoffer]
      rfl
    · simp [nextSource, Option.isSome_iff_ne_none.2 ha, List.isEmpty_eq_false_iff.2 hq]
    · simp [nextSource, Option.isSome_iff_ne_none.2 ha, hq]
    · simp [nextSource, ha, List.isEmpty_eq_false_iff.2 hq]
    · simp [nextSource, ha, hq]

end Sys2Proof.Machine

/-! PROOFS. LINK_RESET discards the traffic and leaves its record (R25, R69, R85, R108, R113, R179, R180). -/
namespace Sys2Proof.Machine

theorem exec_linkReset {s : State} (h : LinksUp s) : exec .linkReset s = .next (linkReset s) := by
  obtain ⟨hporst, hlrst⟩ := h
  show execLinkReset s = _
  simp only [execLinkReset, hporst, hlrst, Bool.false_eq_true, if_false]

/-- R179: the state in which a link reset offers its record: the traffic gone, LRST_N asserted. -/
def afterDiscard (s : State) : State := (discardTraffic s).setPins { s.pins with lrst := true }

theorem linkReset_eq (s : State) : linkReset s =
    offerEvent (linkResetRecord (slotCount .live s) (slotCount .orphaned s) s.tbs.timestamp) (afterDiscard s) := by
  simp [linkReset, afterDiscard]

theorem afterDiscard_tcu (s : State) : (afterDiscard s).tcu = { s.tcu with capture := none, syncNeeded := true } := rfl

/-- R108, R111: with no loss pending the group of a link reset is a SYNC and the LINKRESET record. -/
theorem composeGroup_afterDiscard {s : State} (h : s.tcu.lossCount = 0) (r : Record) :
    composeGroup r (afterDiscard s) = [syncRecord s.tbs.timestamp, r] := by
  simp [composeGroup, needsLoss, needsSync, afterDiscard, discardTraffic, h]

/-- R123: the reservations and the claim are released before the record is offered. -/
theorem afterDiscard_fits {k : Nat} {s : State} (hm : modeOf s ≠ .off) (hs : modeOf s = .stop → s.tst.stopped = false)
    (hf : fill s + k ≤ Config.storeSlots) : FitsAsItIs (afterDiscard s) k := by
  have htst : (afterDiscard s).tst = s.tst := by simp [afterDiscard]
  have hclaim : claim (afterDiscard s) = 0 := by simp [claim, afterDiscard_tcu]
  have hreserved : reserved (afterDiscard s) = 0 :=
    reserved_eq_zero fun n => by simp [afterDiscard, discardTraffic, Entry.freed]
  refine ⟨by rwa [modeOf_congr htst], fun h => ?_, ?_⟩
  · rw [htst]
    exact hs (by rwa [modeOf_congr htst] at h)
  · rw [hclaim, hreserved, fill_congr htst]
    omega

/-- R104, R108: the group of a link reset fits: SYNC and LINKRESET stand at the newest end, and the reference is invalid. -/
theorem linkReset_recorded {s : State} (hm : modeOf s ≠ .off) (hs : modeOf s = .stop → s.tst.stopped = false)
    (hloss : s.tcu.lossCount = 0) (hf : fill s + 2 ≤ Config.storeSlots) :
    (linkReset s).tst.records = s.tst.records ++ [syncRecord s.tbs.timestamp,
        linkResetRecord (slotCount .live s) (slotCount .orphaned s) s.tbs.timestamp]
    ∧ (linkReset s).tcu.syncNeeded = false ∧ (linkReset s).tcu.refValid = false ∧ fill (linkReset s) = fill s + 2 := by
  rw [linkReset_eq]
  have hlength : (linkResetRecord (slotCount .live s) (slotCount .orphaned s) s.tbs.timestamp).length = 1 := rfl
  generalize linkResetRecord (slotCount .live s) (slotCount .orphaned s) s.tbs.timestamp = r at hlength ⊢
  have hgroup := composeGroup_afterDiscard hloss r
  have htst : (afterDiscard s).tst = s.tst := by simp [afterDiscard]
  have hslots : slotsOf [syncRecord s.tbs.timestamp, r] = 2 := by simp [slotsOf, syncRecord, hlength]
  have hsync : needsSync (afterDiscard s) = true := rfl
  have hplaced := offerEvent_fits (s := afterDiscard s) (r := r)
    (by rw [hgroup, hslots]; exact afterDiscard_fits hm hs hf)
  rw [hplaced, hgroup, hsync]
  refine ⟨by simp [htst], by simp [groupPlaced], by simp [groupPlaced], ?_⟩
  rw [fill_congr (State.setTcu_tst _ _), fill_appendGroup, hslots, fill_congr htst]

/-- Settles O4: the traffic goes, then the LINKRESET record is offered, which reaches TST, TCU and the causes alone. -/
theorem linkResetDiscardsTheTraffic : Obligations.LinkResetDiscardsTheTraffic := by
  refine ⟨fun _ => rfl, fun s hl => ⟨_, exec_linkReset hl, linkReset_entry s, ?_⟩⟩
  have hrecorded := linkReset_recorded (s := s)
  have hquiet := linkReset_quiet s
  rw [linkReset_eq] at hrecorded hquiet ⊢
  generalize linkResetRecord (slotCount .live s) (slotCount .orphaned s) s.tbs.timestamp = r at hrecorded hquiet ⊢
  obtain ⟨hcapturing, hby, hset, hfirst, hcapture⟩ := offerRecord_tcu r .unbacked none (afterDiscard s)
  obtain ⟨hmode, htx, hthreshold, hsnapshot⟩ := offerRecord_tst r .unbacked none (afterDiscard s)
  have hdown : linkUp (offerEvent r (afterDiscard s)) = false := by simp [linkUp, afterDiscard]
  refine ⟨by simp [afterDiscard, discardTraffic], by simp [afterDiscard, discardTraffic],
    by simp [afterDiscard, discardTraffic], by simp [afterDiscard, discardTraffic],
    hquiet.rsp, by simp [afterDiscard, discardTraffic], by simp [afterDiscard, discardTraffic],
    hcapture, hcapturing, hby, hset, hfirst, hmode, htx, hthreshold, hsnapshot,
    by simp [afterDiscard], by simp [afterDiscard], (offerEvent_alc r _).1, by simp [afterDiscard], by simp [afterDiscard],
    by simp [afterDiscard], by simp [afterDiscard], ?_, ?_, ?_, ?_, hrecorded⟩
  · simp only [upstreamRequestReady, hdown, Bool.false_and]
  · simp only [downstreamResponseReady, hdown, Bool.false_and]
  · simp only [downstreamOffer, hquiet.rqp]
  · simp only [upstreamOffer, hquiet.offer]

end Sys2Proof.Machine

/-! PROOFS. The serial level of the management port: edges, bytes shown, and frames that end early (R133, R134, R182 to
R187). -/
namespace Sys2Proof.Machine

/-! ### Bits of a frame (R182) -/

theorem exec_sclkRisingEdge {bit : Bool} {s : State} (h : Powered s) :
    exec (.sclkRisingEdge bit) s = .next (sclkEdge bit s) := whenPowered_up h

theorem exec_frameBegin {s : State} (h : BetweenFrames s) : exec .frameBegin s = .next (begun s) := by
  obtain ⟨hporst, hcs, hidle⟩ := h
  show Host.Outcome.next (if s.pins.porst then s.setPins { s.pins with cs := true } else beginFrame s) = _
  rw [hporst, if_neg Bool.false_ne_true, beginFrame, if_pos ⟨hidle, hcs⟩]
  rfl

theorem sclkEdge_outside_frame {bit : Bool} {s : State} (h : s.mgp.frameState = .idle) : sclkEdge bit s = s := if_pos h

theorem sclkEdge_within_byte {bit : Bool} {s : State} (hf : s.mgp.frameState ≠ .idle) (h7 : s.mgp.bitPos ≠ 7) :
    sclkEdge bit s = s.setMgp { s.mgp with bitPos := s.mgp.bitPos + 1, shift := shiftIn s.mgp.shift bit } :=
  (if_neg hf).trans (if_neg h7)

/-- Settles O32: the three cases of a frame's beginning and of an edge that completes no byte. -/
theorem framesAreShiftedBitByBit : Obligations.FramesAreShiftedBitByBit := by
  intro s
  refine ⟨fun hb => exec_frameBegin hb, fun bit hp hf h7 => ?inByte, fun bit hidle => ?outside⟩
  case inByte =>
    rw [exec_sclkRisingEdge hp, sclkEdge_within_byte hf h7]
    rfl
  case outside =>
    show Host.Outcome.next (if s.pins.porst then s else sclkEdge bit s) = _
    rw [sclkEdge_outside_frame hidle, ite_self]

/-! ### The bytes on MISO (R182 to R187) -/

/-- R182: the bit on MISO is the byte's at the bit position, most significant first. -/
theorem misoBit_of_byte {b : Byte} {s : State} (h : misoByte s = some b) :
    misoBit s = some (b.getLsbD (7 - s.mgp.bitPos.toNat)) := by rw [misoBit, h, Option.map_some]

theorem misoByte_idle {s : State} (h : s.mgp.frameState = .idle) : misoByte s = none := by rw [misoByte, h]

theorem misoByte_command {s : State} (h : s.mgp.frameState = .command) : misoByte s = some s.mgp.lastStatus.code := by
  rw [misoByte, h]

/-- R184, R186: header, payload and what follows a complete content show 0x00. -/
theorem misoByte_zero {s : State}
    (h : s.mgp.frameState = .header ∨ s.mgp.frameState = .payload ∨ s.mgp.frameState = .drain) :
    misoByte s = some 0 := by
  rcases h with h | h | h <;> rw [misoByte, h]

/-- R187: byte `k` behind the header is byte `k` of the snapshot. -/
theorem misoByte_dataOut {s : State} {bytes : List Byte} {k : Nat} {b : Byte} (h : s.mgp.frameState = .dataOut)
    (hsnap : s.mgp.snapshot = some bytes) (hpos : s.mgp.bytePos.toNat = s.mgp.received.length + k)
    (hk : bytes[k]? = some b) : misoByte s = some b := by
  have hindex : s.mgp.bytePos.toNat - s.mgp.received.length = k := by omega
  simp only [misoByte, h, hsnap, hindex, Option.getD_some, List.getD_eq_getElem?_getD, hk]

/-! ### The bytes on EGRESS (R133, R134) -/

/-- R134: byte `k` of a slot, bits 63..56 first. -/
theorem slotByte_eq (x : Slot64) (k : BitVec 3) : slotByte x k = x.extractLsb' (8 * (7 - k.toNat)) 8 := by
  revert k
  have bytes : ∀ k : Fin 8, slotByte x (BitVec.ofFin k) = x.extractLsb' (8 * (7 - k.val)) 8 := fun k => by
    match k with
    | 0 | 1 | 2 | 3 | 4 | 5 | 6 | 7 => rfl
  exact fun k => bytes k.toFin

theorem slotByte_getLsbD (x : Slot64) (k : BitVec 3) {i : Nat} (hi : i < 8) :
    (slotByte x k).getLsbD i = x.getLsbD (8 * (7 - k.toNat) + i) := by
  rw [slotByte_eq, BitVec.getLsbD_extractLsb', decide_eq_true hi, Bool.true_and]

/-- R134: with a record in transmission the port offers the byte at its slot and byte position. -/
theorem egressOffer_transmitting {s : State} {x : Transmission} {slot : Slot64} (h : s.tst.tx = some x)
    (hslot : x.record[x.slotPos]? = some slot) :
    egressOffer s = (slotByte slot x.bytePos, decide (x.slotPos = 0 ∧ x.bytePos = 0)) := by
  simp only [egressOffer, h, List.getD_eq_getElem?_getD, hslot, Option.getD_some]

/-- R133: a STREAM mode offers the first byte of its oldest record. -/
theorem egressOffer_next_record {s : State} {slot : Slot64} {r : List Slot64} {rest : List Record}
    (h : s.tst.tx = none) (hrecords : s.tst.records = (slot :: r) :: rest)
    (hmode : modeOf s = .streamStall ∨ modeOf s = .streamDrop) : egressOffer s = (slotByte slot 0, true) := by
  simp only [egressOffer, h, hrecords, streaming, decide_eq_true hmode, if_true, List.headD_cons]

/-- R133: without a record to send the port offers the idle byte. -/
theorem egressOffer_idle {s : State} (h : s.tst.tx = none)
    (hnone : s.tst.records = [] ∨ (modeOf s ≠ .streamStall ∧ modeOf s ≠ .streamDrop)) :
    egressOffer s = (0, true) := by
  rcases hnone with hempty | ⟨hstall, hdrop⟩
  · simp only [egressOffer, h, hempty]
  · have hmode : streaming s = false := decide_eq_false (fun hs => hs.elim hstall hdrop)
    cases hrecords : s.tst.records with
    | nil => simp only [egressOffer, h, hrecords]
    | cons r rs => simp only [egressOffer, h, hrecords, hmode, Bool.false_eq_true, if_false]

/-- Settles O33: MISO by the frame state, EGRESS by the record in transmission or next to send. -/
theorem thePortsShowTheirBytes : Obligations.ThePortsShowTheirBytes := by
  refine ⟨fun s hb => ?between, fun s h => ?command, fun s h => ?zero, fun s bytes k b h hsnap hpos hk => ?dataOut,
    fun s x slot h hslot => ?transmitting, fun s slot r rest h hrecords hmode => ?nextRecord,
    fun s h hnone => egressOffer_idle h hnone⟩
  case between =>
    have hnone := misoByte_idle hb.2.2
    exact ⟨hnone, by rw [misoBit, hnone, Option.map_none], begun s, exec_frameBegin hb, misoByte_command rfl⟩
  case command => exact ⟨misoByte_command h, misoBit_of_byte (misoByte_command h)⟩
  case zero => exact ⟨misoByte_zero h, (misoBit_of_byte (misoByte_zero h)).trans (congrArg some BitVec.getLsbD_zero)⟩
  case dataOut =>
    have hbyte := misoByte_dataOut h hsnap hpos hk
    exact ⟨hbyte, misoBit_of_byte hbyte⟩
  case transmitting =>
    rw [egressOffer_transmitting h hslot]
    exact ⟨fun i hi => slotByte_getLsbD slot x.bytePos hi, decide_eq_true_iff⟩
  case nextRecord =>
    rw [egressOffer_next_record h hrecords hmode]
    exact Prod.ext (slotByte_eq slot 0) rfl

/-! ### Frames that end early, unknown codes and read frames (R183 to R185) -/

/-- R199: while PORST_N is deasserted the rise of CS_N ends the frame in progress. -/
theorem exec_aborted {s : State} (h : Powered s) : exec .aborted s = .next (abortFrame s) := by
  show Host.Outcome.next (if s.pins.porst then s.setPins { s.pins with cs := false } else abortFrame s) = _
  rw [show s.pins.porst = false from h, if_neg Bool.false_ne_true]

/-- R185: a frame with a complete bit whose content is not complete is cut short. -/
theorem abortFrame_short {s : State} (h : s.mgp.frameState = .header ∨ s.mgp.frameState = .payload
    ∨ (s.mgp.frameState = .command ∧ s.mgp.bitPos ≠ 0)) : abortFrame s = closeFrame .aborted s := by
  rcases h with h | h | ⟨h, hbit⟩
  · simp only [abortFrame, h]
  · simp only [abortFrame, h]
  · simp only [abortFrame, h, if_neg hbit]

/-- R183: a frame without a complete bit is ignored. -/
theorem abortFrame_empty {s : State} (h : s.mgp.frameState = .command) (hbit : s.mgp.bitPos = 0) :
    abortFrame s = closeFrame s.mgp.lastStatus s := by simp only [abortFrame, h, if_pos hbit]

/-- R196: the command codes lie in 0x21..0x24 and 0x31..0x3B. -/
theorem Command.code_range (c : Command) : (0x21 ≤ c.code.toNat ∧ c.code.toNat ≤ 0x24)
    ∨ (0x31 ≤ c.code.toNat ∧ c.code.toNat ≤ 0x3B) := by cases c <;> decide

theorem Command.ofCode_eq_none {code : Byte}
    (h : code.toNat < 0x21 ∨ 0x24 < code.toNat ∧ code.toNat < 0x31 ∨ 0x3B < code.toNat) :
    Command.ofCode code = none := by
  refine List.find?_eq_none.2 fun c _ => ?_
  rw [decide_eq_true_iff]
  rintro rfl
  have := c.code_range
  omega

/-- R184: a frame whose byte 0 names no command, sent whole between frames. -/
theorem exec_badCommand {code : Byte} {s : State} (hb : BetweenFrames s) (h : Command.ofCode code = none) :
    exec (.badCommand code) s = .next (s.setMgp (Mgp.idle .badCommand)) := by
  refine (whenPowered_up (powered_of_between hb)).trans (congrArg _ ?_)
  rw [endBadCommand, h, Option.isNone_none, if_pos rfl, endFrame_between hb, closeFrame_between hb rfl]

/-- R183, R185: a READ_REG or READ_ENTRY frame ends with the status fixed at its header. -/
theorem endReadFrame_fixed {st : Status} {code : Byte} {s : State} (hhead : s.mgp.received.head? = some code)
    (hcode : code = 0x21 ∨ code = 0x23) (hst : s.mgp.frameStatus = some st) : endReadFrame s = closeFrame st s := by
  rcases hcode with rfl | rfl
  · have hopen : openRead s = some (.readReg, st) := by
      simp only [openRead, commandOf, hhead, hst, Option.bind_some, show Command.ofCode 0x21 = some .readReg from rfl]
    rw [endReadFrame, hopen]
  · have hopen : openRead s = some (.readEntry, st) := by
      simp only [openRead, commandOf, hhead, hst, Option.bind_some, show Command.ofCode 0x23 = some .readEntry from rfl]
    rw [endReadFrame, hopen]

/-- Settles O36: each end closes the frame with its status, and closing a frame reaches the pins and the port alone. -/
theorem frameEndsLeaveTheirStatus : Obligations.FrameEndsLeaveTheirStatus := by
  intro s hp
  refine ⟨fun h => ?short, fun h hbit => ?empty, fun code hb hcode => exec_badCommand hb (Command.ofCode_eq_none hcode),
    fun st code hhead hcode hst => ?read⟩
  case short =>
    rw [exec_aborted hp, abortFrame_short h]
    rfl
  case empty =>
    rw [exec_aborted hp, abortFrame_empty h hbit]
    rfl
  case read =>
    refine (whenPowered_up hp).trans ?_
    rw [endReadFrame_fixed hhead hcode hst]
    rfl

end Sys2Proof.Machine

/-! PROOFS. Management frames sent bit by bit are their rows (R182, R184, R187, R188, R191 to R194; log entry 6). -/
namespace Sys2Proof.Machine

/-! ### The header of a read-type command (R184, R187, R191, R192) -/

theorem satInc_ofNat {k : Nat} (h : k < 65535) : satInc (BitVec.ofNat 16 k) = BitVec.ofNat 16 (k + 1) := by
  have hne : BitVec.ofNat 16 k ≠ BitVec.allOnes 16 := fun heq => by
    have := congrArg BitVec.toNat heq
    simp only [BitVec.toNat_ofNat, BitVec.toNat_allOnes] at this
    omega
  rw [satInc, if_neg hne, BitVec.ofNat_add]
  rfl

/-- R182: a frame with `f` received, on a byte boundary. -/
def received (st : FrameState) (f : List Byte) (s : State) : State := inFrame st f (BitVec.ofNat 16 f.length) s

theorem headerLength_of_code {code : Byte} {c : Command} (hc : Command.ofCode code = some c) (w : List Byte) :
    headerLength (code :: w) = 1 + c.headerBytes := by
  simp only [headerLength, commandOf, List.head?_cons, Option.bind_some, hc]

/-- R196: a header has at most three bytes after byte 0. -/
theorem Command.headerBytes_le (c : Command) : c.headerBytes ≤ 3 := by cases c <;> decide

/-- R184: a byte of the header, the last of which completes it. -/
theorem byteComplete_header {code x : Byte} {c : Command} (hc : Command.ofCode code = some c) {w : List Byte} {s : State}
    (hw : w.length < 65534) :
    byteComplete x (received .header (code :: w) s)
      = if w.length + 1 = c.headerBytes then headerComplete (received .header (code :: (w ++ [x])) s)
        else received .header (code :: (w ++ [x])) s := by
  have hpos : satInc (BitVec.ofNat 16 (code :: w).length) = BitVec.ofNat 16 (code :: (w ++ [x])).length := by
    rw [satInc_ofNat (by simp only [List.length_cons]; omega)]
    simp
  have hframe : byteComplete x (received .header (code :: w) s)
      = if (code :: (w ++ [x])).length = headerLength (code :: (w ++ [x])) then
          headerComplete (inFrame .header (code :: (w ++ [x])) (satInc (BitVec.ofNat 16 (code :: w).length)) s)
        else inFrame .header (code :: (w ++ [x])) (satInc (BitVec.ofNat 16 (code :: w).length)) s := rfl
  have hlast : (code :: (w ++ [x])).length = 1 + c.headerBytes ↔ w.length + 1 = c.headerBytes := by
    simp only [List.length_cons, List.length_append, List.length_nil]
    omega
  rw [hframe, hpos, headerLength_of_code hc]
  simp only [hlast, received]

/-- R184: the bytes of a header arrive one after the other, and the last one completes it. -/
theorem header_edges {code : Byte} {c : Command} (hc : Command.ofCode code = some c) {s : State} (hp : Powered s)
    (bs : List Byte) : ∀ w : List Byte, bs ≠ [] → w.length + bs.length = c.headerBytes →
      execAll (bs.flatMap byteEdges) (received .header (code :: w) s)
        = .next (headerComplete (received .header (code :: (w ++ bs)) s)) := by
  induction bs with
  | nil => exact fun w h => absurd rfl h
  | cons x bs ih =>
    intro w _ hlen
    have hbound := c.headerBytes_le
    rw [List.length_cons] at hlen
    rw [List.flatMap_cons, received, edges_inFrame hp (by decide), ← received, byteComplete_header hc (by omega)]
    cases bs with
    | nil =>
      rw [if_pos (by simpa using hlen)]
      rfl
    | cons y bs =>
      rw [List.length_cons] at hlen
      rw [if_neg (by omega), ih (w ++ [x]) (List.cons_ne_nil y bs) (by simp; omega), List.append_assoc]
      rfl

/-- R184: byte 0 of a command that has a header. -/
theorem code_of_header {code : Byte} {c : Command} (hc : Command.ofCode code = some c) (hh : 0 < c.headerBytes)
    (s : State) :
    byteComplete code (inFrame .command [] 0 s) = received .header [code] s := by
  show commandComplete code _ = _
  unfold commandComplete
  rw [hc]
  dsimp only
  rw [if_pos hh]
  rfl

/-- R184: a frame sent bit by bit up to the last bit of its header. -/
theorem frame_to_header {code : Byte} {c : Command} (hc : Command.ofCode code = some c) {bs : List Byte} {s : State}
    (hb : BetweenFrames s) (hne : bs ≠ []) (hlen : bs.length = c.headerBytes) :
    execAll (.frameBegin :: (code :: bs).flatMap byteEdges) s
      = .next (headerComplete (received .header (code :: bs) s)) := by
  have hp := powered_of_between hb
  have hpos : 0 < c.headerBytes := hlen ▸ List.length_pos_iff.2 hne
  rw [frameBegin_between hb, begun_eq, List.flatMap_cons, edges_inFrame hp (by decide), code_of_header hc hpos,
    header_edges hc hp bs [] hne (by simpa using hlen)]
  rfl

/-- R184: a command taken at its header fixes frame status and snapshot, whatever stood there. -/
def FixesRead (take : State → State) : Prop :=
  ∀ (status : Option Status) (data : Option (List Byte)) (s : State),
    take (s.setMgp { s.mgp with frameStatus := status, snapshot := data }) = take s

theorem takeReadReg_fixes (index : Half) (count : Byte) : FixesRead (takeReadReg index count) := fun _ _ _ => by
  unfold takeReadReg
  split <;> rfl

theorem takeReadEntry_fixes (slot : Byte) : FixesRead (takeReadEntry slot) := fun _ _ _ => by
  unfold takeReadEntry
  split <;> rfl

theorem takeTraceRead_fixes (count : Half) : FixesRead (takeTraceRead count) := fun status data s => by
  have hst : traceReadStatus count (s.setMgp { s.mgp with frameStatus := status, snapshot := data })
      = traceReadStatus count s := rfl
  unfold takeTraceRead
  rw [hst]
  split <;> rfl

/-- R184: taken with its header received edge by edge, a read-type command does what its row does. -/
theorem take_received {f : List Byte} {take : State → State} {s : State} (hb : BetweenFrames s) (ht : FixesRead take) :
    take (received .header f s) = sendHeader f take s := by
  rw [sendHeader_between hb]
  exact ht none none ((s.setPins { s.pins with cs := true }).setMgp
    { s.mgp with frameState := .header, received := f, bytePos := BitVec.ofNat 16 f.length, bitPos := 0, shift := 0 })

/-- Settles O34: `frame_to_header` brings each frame to `headerComplete`, which takes the command its code names. -/
theorem readCommandsAreTakenAtTheirHeader : Obligations.ReadCommandsAreTakenAtTheirHeader := by
  intro s hb
  have hp := powered_of_between hb
  have row : ∀ {f : List Byte} {take : State → State} {i : Instr}, FixesRead take →
      exec i s = whenPowered (sendHeader f take) s → Host.Outcome.next (take (received .header f s)) = exec i s :=
    fun ht hi => by rw [hi, whenPowered_up hp, take_received hb ht]
  refine ⟨fun index count => ?readReg, fun slot => ?readEntry, fun count => ?traceRead⟩
  case readReg =>
    have hframe := frame_to_header (code := 0x21) (c := .readReg) rfl
      (bs := [index.extractLsb' 8 8, index.extractLsb' 0 8, count]) hb (List.cons_ne_nil _ _) rfl
    have htake : headerComplete (received .header (readRegBytes index count) s)
        = takeReadReg (halfOf (index.extractLsb' 8 8) (index.extractLsb' 0 8)) count
          (received .header (readRegBytes index count) s) := rfl
    rw [halfOf_bytes] at htake
    refine Eq.trans ?_ (hframe.trans ((congrArg _ htake).trans (row (takeReadReg_fixes index count) rfl)))
    simp only [List.flatMap_cons, List.flatMap_nil, List.append_assoc, List.append_nil]
  case readEntry =>
    have hframe := frame_to_header (code := 0x23) (c := .readEntry) rfl (bs := [slot]) hb (List.cons_ne_nil _ _) rfl
    refine Eq.trans ?_ (hframe.trans (row (f := readEntryBytes slot) (take := takeReadEntry slot)
      (takeReadEntry_fixes slot) rfl))
    simp only [List.flatMap_cons, List.flatMap_nil, List.append_nil]
  case traceRead =>
    have hframe := frame_to_header (code := 0x24) (c := .traceRead) rfl
      (bs := [count.extractLsb' 8 8, count.extractLsb' 0 8]) hb (List.cons_ne_nil _ _) rfl
    have htake : headerComplete (received .header (traceReadBytes count) s)
        = takeTraceRead (halfOf (count.extractLsb' 8 8) (count.extractLsb' 0 8))
          (received .header (traceReadBytes count) s) := rfl
    rw [halfOf_bytes] at htake
    refine Eq.trans ?_ (hframe.trans ((congrArg _ htake).trans (row (takeTraceRead_fixes count) rfl)))
    simp only [List.flatMap_cons, List.flatMap_nil, List.append_assoc, List.append_nil]

/-! ### Commands taken at the end of their frame (R184, R188, R193, R194) -/

/-- What a command does in the blocks neither looks at the port nor writes the pins. -/
structure IgnoresPort (take : State → Status × State) (s : State) : Prop where
  port : ∀ m p, take (withPort m p s) = ((take s).1, withPort m p (take s).2)
  pins : (take s).2.pins = s.pins

theorem IgnoresPort.of_effect {effect : State → State} {s : State}
    (hport : ∀ m p, effect (withPort m p s) = withPort m p (effect s)) (hpins : (effect s).pins = s.pins) :
    IgnoresPort (fun t => (.ok, effect t)) s := ⟨fun m p => by rw [hport], hpins⟩

theorem latchArm_ignores_port (s : State) : IgnoresPort latchArm s where
  port m p := by
    unfold latchArm
    rw [show (withPort m p s).tsq = s.tsq from rfl]
    split <;> rfl
  pins := by
    unfold latchArm
    split <;> rfl

theorem latchDisarm_ignores_port (s : State) : IgnoresPort latchDisarm s where
  port m p := by
    unfold latchDisarm
    rw [show (withPort m p s).tsq = s.tsq from rfl]
    split <;> rfl
  pins := by
    unfold latchDisarm
    split <;> rfl

theorem takeWriteReg_ignores_port (index : Half) (count : Byte) (words : List Word) (s : State) :
    IgnoresPort (takeWriteReg index count words) s where
  port m p := takeWriteReg_port m p index count words s
  pins := takeWriteReg_pins index count words s

/-- R183: with its content shifted in, a command taken at the end of its frame does what its row does between frames. -/
theorem exec_at_frame_end {i : Instr} {f : List Byte} {n : Half} {take : State → Status × State} {s : State}
    (hb : BetweenFrames s) (hx : ∀ s, exec i s = whenPowered (endFrame f take) s) (ht : IgnoresPort take s) :
    exec i (inFrame .drain f n s) = exec i s := by
  have hp := powered_of_between hb
  rw [hx, hx, whenPowered_up hp, whenPowered_up (s := inFrame .drain f n s) hp, endFrame_in hb (by decide) ht.port ht.pins]

theorem execAll_single {i : Instr} {t : State} : execAll [i] t = exec i t := by
  simp only [execAll]
  cases exec i t <;> rfl

/-- Bits that are the whole content of the command's frame: with them shifted in only the pins and the port differ, and
the row taken there is the row between frames. -/
def TakenAtFrameEnd (i : Instr) (bits : List Instr) (s : State) : Prop :=
  execAll (.frameBegin :: (bits ++ [i])) s = exec i s
  ∧ ∃ m, execAll (.frameBegin :: bits) s = .next { s with pins := { s.pins with cs := true }, mgp := m }

/-- R183, R184: bits that bring the port to the end of the command's content are its whole frame. -/
theorem takenAtFrameEnd {i : Instr} {f : List Byte} {bits : List Instr} {take : State → Status × State} {s : State}
    (hb : BetweenFrames s)
    (hbits : ∃ n, ∀ rest, execAll (.frameBegin :: (bits ++ rest)) s = execAll rest (inFrame .drain f n s))
    (hx : ∀ s, exec i s = whenPowered (endFrame f take) s) (ht : IgnoresPort take s) : TakenAtFrameEnd i bits s := by
  obtain ⟨n, hn⟩ := hbits
  have hall := hn []
  rw [List.append_nil] at hall
  exact ⟨by rw [hn, execAll_single, exec_at_frame_end hb hx ht], _, hall⟩

/-- R193: a command without header and payload is its code. -/
theorem code_edges {c : Command} {s : State} (hb : BetweenFrames s)
    (hc : Command.ofCode c.code = some c ∧ c.headerBytes = 0 ∧ c.payloadBytes [c.code] = 0) :
    ∃ n, ∀ rest, execAll (.frameBegin :: (byteEdges c.code ++ rest)) s = execAll rest (inFrame .drain [c.code] n s) :=
  ⟨1, fun rest => by
    rw [frameBegin_between hb, begun_eq, edges_inFrame (powered_of_between hb) (by decide), drainAt _ ⟨c, hc⟩]⟩

/-- R184: a byte of the payload, the last of which completes the content. -/
theorem byteComplete_payload {code x : Byte} {total : Nat} (ht : ∀ w, contentLength (code :: w) = 1 + total)
    (w : List Byte) (n : Half) (s : State) :
    byteComplete x (inFrame .payload (code :: w) n s)
      = inFrame (if w.length + 1 = total then .drain else .payload) (code :: (w ++ [x])) (satInc n) s := by
  have hframe : byteComplete x (inFrame .payload (code :: w) n s)
      = if (code :: (w ++ [x])).length = contentLength (code :: (w ++ [x])) then
          inFrame .drain (code :: (w ++ [x])) (satInc n) s
        else inFrame .payload (code :: (w ++ [x])) (satInc n) s := rfl
  have hlast : (code :: (w ++ [x])).length = 1 + total ↔ w.length + 1 = total := by
    simp only [List.length_cons, List.length_append, List.length_nil]
    omega
  rw [hframe, ht]
  simp only [hlast]
  split <;> rfl

/-- R194: the payload of a command without header arrives byte by byte. -/
theorem action_payload_edges {code : Byte} {total : Nat} (ht : ∀ w, contentLength (code :: w) = 1 + total) {s : State}
    (hp : Powered s) (bs : List Byte) : ∀ (w : List Byte) (n : Half), bs ≠ [] → w.length + bs.length = total →
      ∃ n', ∀ rest, execAll (bs.flatMap byteEdges ++ rest) (inFrame .payload (code :: w) n s)
        = execAll rest (inFrame .drain (code :: (w ++ bs)) n' s) := by
  induction bs with
  | nil => exact fun w n h => absurd rfl h
  | cons x bs ih =>
    intro w n _ hlen
    rw [List.length_cons] at hlen
    cases bs with
    | nil =>
      refine ⟨satInc n, fun rest => ?_⟩
      rw [List.flatMap_cons, List.append_assoc, edges_inFrame hp (by decide), byteComplete_payload ht,
        if_pos (by simpa using hlen)]
      rfl
    | cons y bs =>
      rw [List.length_cons] at hlen
      obtain ⟨n', h⟩ := ih (w ++ [x]) (satInc n) (List.cons_ne_nil y bs) (by simp; omega)
      refine ⟨n', fun rest => ?_⟩
      rw [List.flatMap_cons, List.append_assoc, edges_inFrame hp (by decide), byteComplete_payload ht,
        if_neg (by omega), h, List.append_assoc]
      rfl

/-- R194: an action command with a payload, sent bit by bit. -/
theorem action_frame_edges {c : Command} {bs : List Byte} {s : State} (hb : BetweenFrames s)
    (hc : Command.ofCode c.code = some c) (hh : c.headerBytes = 0)
    (hpay : ∀ w, c.payloadBytes (c.code :: w) = bs.length) (hne : bs ≠ []) :
    ∃ n, ∀ rest, execAll (.frameBegin :: ((c.code :: bs).flatMap byteEdges ++ rest)) s
      = execAll rest (inFrame .drain (c.code :: bs) n s) := by
  have hp := powered_of_between hb
  have hlen : ∀ w, contentLength (c.code :: w) = 1 + bs.length := fun w => by
    simp only [contentLength, commandOf, List.head?_cons, Option.bind_some, hc, hh, hpay, Nat.add_zero]
  have hcode : byteComplete c.code (inFrame .command [] 0 s) = inFrame .payload [c.code] 1 s := by
    show commandComplete c.code _ = _
    unfold commandComplete
    rw [hc]
    dsimp only
    rw [hh, if_neg (Nat.lt_irrefl 0), hpay, if_pos (List.length_pos_iff.2 hne)]
    rfl
  obtain ⟨n, h⟩ := action_payload_edges hlen hp bs [] 1 hne (Nat.zero_add _)
  refine ⟨n, fun rest => ?_⟩
  rw [frameBegin_between hb, begun_eq, List.flatMap_cons, List.append_assoc, edges_inFrame hp (by decide), hcode, h]
  rfl

/-- R193: an action command without payload, sent bit by bit. -/
theorem action_taken {c : Command} {i : Instr} {take : State → Status × State} {s : State} (hb : BetweenFrames s)
    (hc : Command.ofCode c.code = some c ∧ c.headerBytes = 0 ∧ c.payloadBytes [c.code] = 0)
    (hx : ∀ s, exec i s = whenPowered (endFrame [c.code] take) s) (ht : IgnoresPort take s) :
    TakenAtFrameEnd i (byteEdges c.code) s :=
  takenAtFrameEnd hb (code_edges hb hc) hx ht

/-- R184, R193: the nine action commands without payload. -/
theorem actions_taken {s : State} (hb : BetweenFrames s) :
    ∀ p ∈ [((0x31 : Byte), Instr.arm), (0x32, .disarm), (0x33, .releaseHold), (0x34, .purgeOrphans),
        (0x35, .startCapture), (0x36, .stopCapture), (0x39, .ackAnomaly), (0x3A, .clearMatch), (0x3B, .clearWatch)],
      TakenAtFrameEnd p.2 (byteEdges p.1) s := by
  simp only [List.forall_mem_cons]
  refine ⟨?arm, ?disarm, ?releaseHold, ?purgeOrphans, ?startCapture, ?stopCapture, ?ackAnomaly, ?clearMatch, ?clearWatch,
    fun _ h => absurd h List.not_mem_nil⟩
  case arm => exact action_taken (c := .arm) hb (by decide) (fun _ => rfl) (latchArm_ignores_port s)
  case disarm => exact action_taken (c := .disarm) hb (by decide) (fun _ => rfl) (latchDisarm_ignores_port s)
  case releaseHold =>
    exact action_taken (c := .releaseHold) hb (by decide) (fun _ => rfl)
      (.of_effect (effect := release) (fun m p => release_port m p s) (by simp))
  case purgeOrphans =>
    exact action_taken (c := .purgeOrphans) hb (by decide) (fun _ => rfl)
      (.of_effect (effect := purge) (fun _ _ => rfl) (by simp))
  case startCapture =>
    exact action_taken (c := .startCapture) hb (by decide) (fun _ => rfl)
      (.of_effect (effect := setCapturing true) (fun _ _ => rfl) rfl)
  case stopCapture =>
    exact action_taken (c := .stopCapture) hb (by decide) (fun _ => rfl)
      (.of_effect (effect := setCapturing false) (fun _ _ => rfl) rfl)
  case ackAnomaly =>
    exact action_taken (c := .ackAnomaly) hb (by decide) (fun _ => rfl)
      (.of_effect (effect := clearSummary) (fun _ _ => rfl) rfl)
  case clearMatch =>
    exact action_taken (c := .clearMatch) hb (by decide) (fun _ => rfl)
      (.of_effect (effect := clearMatches) (fun _ _ => rfl) rfl)
  case clearWatch =>
    exact action_taken (c := .clearWatch) hb (by decide) (fun _ => rfl)
      (.of_effect (effect := clearWatch) (fun m p => clearWatch_port m p s) (by simp [clearWatch]))

theorem ackAlert_taken {causes : Byte} {s : State} (hb : BetweenFrames s) :
    TakenAtFrameEnd (.ackAlert causes) ((ackAlertBytes causes).flatMap byteEdges) s :=
  takenAtFrameEnd hb
    (action_frame_edges (c := .ackAlert) (bs := [causes]) hb rfl rfl (fun _ => rfl) (List.cons_ne_nil _ _))
    (fun _ => rfl) (.of_effect (effect := acknowledge (causes.extractLsb' 0 6)) (fun _ _ => rfl) rfl)

theorem placeMark_port (m : Mgp) (p : Pins) (value : Word) (s : State) :
    placeMark value (withPort m p s) = withPort m p (placeMark value s) := offerEvent_port m p s _

theorem mark_taken {value : Word} {s : State} (hb : BetweenFrames s) :
    TakenAtFrameEnd (.mark value) ((markBytes value).flatMap byteEdges) s :=
  takenAtFrameEnd hb
    (action_frame_edges (c := .mark) (bs := wordBytes value) hb rfl rfl (fun _ => rfl) (List.cons_ne_nil _ _))
    (fun _ => rfl) (.of_effect (fun m p => placeMark_port m p value s) (by simp [placeMark]))

/-- R188: every row that a WRITE_REG frame can be is that frame. -/
theorem exec_writeRow {index : Half} {count : Byte} {words : List Word} {row : Instr}
    (h : row ∈ writeRows index count words) (s : State) : exec row s = whenPowered (writeFrame index count words) s := by
  revert row
  simp only [writeRows, List.forall_mem_cons]
  exact ⟨rfl, rfl, rfl, rfl, rfl, rfl, rfl, rfl, rfl, rfl, fun _ h => absurd h List.not_mem_nil⟩

theorem countValid_iff {count : Byte} : countValid count = true ↔ 1 ≤ count.toNat ∧ count.toNat ≤ 64 :=
  decide_eq_true_iff

/-- R188: a WRITE_REG frame of 1 to 64 words, sent bit by bit, is each of its rows. -/
theorem writeReg_taken {index : Half} {count : Byte} {words : List Word} {bits : List Instr} {s : State}
    (hb : BetweenFrames s) (hv : countValid count = true) (hl : words.length = count.toNat)
    (hbits : bits = byteEdges 0x22 ++ byteEdges (index.extractLsb' 8 8) ++ byteEdges (index.extractLsb' 0 8)
        ++ byteEdges count ++ (words.flatMap wordBytes).flatMap byteEdges) :
    (∀ row ∈ writeRows index count words, execAll (.frameBegin :: (bits ++ [row])) s = exec row s)
    ∧ ∃ m, execAll (.frameBegin :: bits) s = .next { s with pins := { s.pins with cs := true }, mgp := m } := by
  have arrives := fun rest => writeReg_edges hb hv hl (index := index) rest
  simp only [← List.append_assoc, ← hbits] at arrives
  refine ⟨fun row hrow => ?_, ?_⟩
  · obtain ⟨n, hn⟩ := arrives [row]
    rw [hn, execAll_single]
    exact exec_at_frame_end hb (exec_writeRow hrow) (takeWriteReg_ignores_port index count words s)
  · obtain ⟨n, hn⟩ := arrives []
    rw [List.append_nil] at hn
    exact ⟨_, hn⟩

/-- Settles O35: each frame brings the port to the end of its content, where its row is what it is between frames. -/
theorem actionCommandsAreTakenAtTheFramesEnd : Obligations.ActionCommandsAreTakenAtTheFramesEnd := by
  intro s hb
  refine ⟨actions_taken hb, fun causes => ?ackAlert, fun value bits hbits => ?mark,
    fun index count words bits h1 h64 hl hbits => writeReg_taken hb (countValid_iff.2 ⟨h1, h64⟩) hl hbits⟩
  case ackAlert =>
    have hbits : (ackAlertBytes causes).flatMap byteEdges = byteEdges 0x38 ++ byteEdges causes := rfl
    exact hbits ▸ ackAlert_taken hb
  case mark =>
    have hmark : (markBytes value).flatMap byteEdges = bits := by
      rw [hbits]
      rfl
    exact hmark ▸ mark_taken hb

end Sys2Proof.Machine

/-! PROOFS. WRITE_REG frames that are refused, the map of the window, and words that read back as written (R185, R187 to
R190, R197). -/
namespace Sys2Proof.Machine

/-! ### The checks of a WRITE_REG frame (R185, R188, R190) -/

/-- R190, R197: some word of a range has a property. -/
theorem rangeHas_iff {p : WinWord → Bool} {index : Half} {count : Byte} : rangeHas p index count = true
    ↔ ∃ k x, k < count.toNat ∧ wordAt (index.toNat + k) = some x ∧ p x = true := by
  simp only [rangeHas, rangeWords, List.any_map, List.any_eq_true, List.mem_range, Function.comp_apply,
    Option.any_eq_true, exists_and_left]

theorem rangeHas_eq_false {p : WinWord → Bool} {index : Half} {count : Byte}
    (h : ∀ k x, k < count.toNat → wordAt (index.toNat + k) = some x → p x = false) :
    rangeHas p index count = false := by
  rw [← Bool.not_eq_true, rangeHas_iff]
  rintro ⟨k, x, hk, hx, hp⟩
  exact Bool.false_ne_true ((h k x hk hx).symm.trans hp)

theorem writeRegStatus_outside {index : Half} {count : Byte} (h : rangeInWindow index count ≠ true) (s : State) :
    writeRegStatus index count s = .badIndex := by
  simp [writeRegStatus, h]

theorem writeRegStatus_locked {index : Half} {count : Byte} {s : State} (hin : rangeInWindow index count = true)
    (hl : rangeHas locked index count = true) (ha : s.tsq.state = .armed) :
    writeRegStatus index count s = .locked := by
  simp [writeRegStatus, hin, hl, ha]

theorem writeRegStatus_readOnly {index : Half} {count : Byte} {s : State} (hin : rangeInWindow index count = true)
    (hr : rangeHas readOnly index count = true) (hl : s.tsq.state ≠ .armed ∨ rangeHas locked index count = false) :
    writeRegStatus index count s = .badIndex := by
  rcases hl with hl | hl <;> simp [writeRegStatus, hin, hl, hr]

theorem payloadComplete_iff {count : Byte} {words : List Word} : payloadComplete count words = true
    ↔ ¬ (1 ≤ count.toNat ∧ count.toNat ≤ 64) ∨ count.toNat ≤ words.length := by
  rw [payloadComplete, Bool.or_eq_true, Bool.not_eq_true', ← Bool.not_eq_true, countValid_iff, decide_eq_true_iff]

/-- R188: a frame with its payload that a check refuses leaves that check's status and nothing else. -/
theorem exec_refused_write {index : Half} {count : Byte} {words : List Word} {c : Instr} {st : Status} {s : State}
    (hb : BetweenFrames s) (hc : c ∈ writeRows index count words)
    (hpay : ¬ (1 ≤ count.toNat ∧ count.toNat ≤ 64) ∨ count.toNat ≤ words.length)
    (hst : writeRegStatus index count s = st) (hne : st ≠ .ok) :
    exec c s = .next { s with mgp := Mgp.idle st } := by
  subst hst
  rw [exec_writeRow hc, whenPowered_up (powered_of_between hb), writeFrame_refused hb (payloadComplete_iff.2 hpay) hne]
  rfl

/-- R185: a frame cut short in its payload. -/
theorem exec_short_write {index : Half} {count : Byte} {words : List Word} {c : Instr} {s : State}
    (hb : BetweenFrames s) (hc : c ∈ writeRows index count words) (hcount : 1 ≤ count.toNat ∧ count.toNat ≤ 64)
    (hshort : words.length < count.toNat) : exec c s = .next { s with mgp := Mgp.idle .aborted } := by
  have hpay : payloadComplete count words = false := by
    rw [← Bool.not_eq_true, payloadComplete_iff]
    exact fun h => h.elim (· hcount) (Nat.not_le.2 hshort)
  rw [exec_writeRow hc, whenPowered_up (powered_of_between hb), writeFrame_short hb hpay]
  rfl

/-! ### The map of the window (R190, R197) -/

theorem locked_channel (n : Fin 8) (k : Fin 12) : locked (.channel n k) = true ↔ k.val ≤ 10 := decide_eq_true_iff
theorem readOnly_channel (n : Fin 8) (k : Fin 12) : readOnly (.channel n k) = true ↔ k.val = 11 := decide_eq_true_iff

/-- R197: the single words stand at 0x000..0x002, 0x090..0x093, 0x0A0..0x0A1, 0x0B0..0x0B7 and 0x0C0..0x0CA. -/
theorem singleWords_index : ∀ p ∈ singleWords, p.1 ≤ 0x002 ∨ (0x090 ≤ p.1 ∧ p.1 ≤ 0x093)
    ∨ (0x0A0 ≤ p.1 ∧ p.1 ≤ 0x0A1) ∨ (0x0B0 ≤ p.1 ∧ p.1 ≤ 0x0B7) ∨ (0x0C0 ≤ p.1 ∧ p.1 ≤ 0x0CA) := by decide

/-- R197: between and behind the words the window has gaps. -/
theorem wordAt_gap {i : Nat} (h : (0x002 < i ∧ i < 0x010) ∨ (0x093 < i ∧ i < 0x0A0) ∨ (0x0A1 < i ∧ i < 0x0B0)
    ∨ (0x0B7 < i ∧ i < 0x0C0) ∨ 0x0CA < i) : wordAt i = none := by
  have hnone : singleWords.find? (fun p => p.1 = i) = none := by
    refine List.find?_eq_none.2 fun p hp => ?_
    rw [decide_eq_true_iff]
    rintro rfl
    have := singleWords_index p hp
    omega
  rw [wordAt, dif_neg (by omega), dif_neg (by omega), hnone]
  rfl

/-- Settles O43: the checks in the order of R188, then the map from its definition. -/
theorem aRefusedWriteWritesNothing : Obligations.ARefusedWriteWritesNothing := by
  refine ⟨fun index count words s hb c hc => ⟨fun h => ?outside, fun h1 h64 hshort => ?short,
      fun h1 h64 hpay hwords => ⟨fun hlock ha => ?locked, fun hro hfree => ?readOnly⟩⟩,
    fun n k => ⟨wordAt_channel n k, locked_channel n k, readOnly_channel n k⟩,
    fun n k => ⟨wordAt_stage n k, rfl, rfl⟩, by decide, by decide, fun i h => wordAt_gap h⟩
  case outside =>
    refine exec_refused_write hb hc (h.imp_right fun ⟨hpay, _⟩ => hpay) (writeRegStatus_outside (fun hin => ?_) s)
      (by decide)
    obtain ⟨h1, h64, hwords⟩ := rangeInWindow_iff.1 hin
    rcases h with hcount | ⟨_, k, hk, hnone⟩
    · exact hcount ⟨h1, h64⟩
    · exact hwords k hk hnone
  case short => exact exec_short_write hb hc ⟨h1, h64⟩ hshort
  case locked =>
    have hin := rangeInWindow_iff.2 ⟨h1, h64, hwords⟩
    exact exec_refused_write hb hc (.inr hpay) (writeRegStatus_locked hin (rangeHas_iff.2 hlock) ha) (by decide)
  case readOnly =>
    have hin := rangeInWindow_iff.2 ⟨h1, h64, hwords⟩
    exact exec_refused_write hb hc (.inr hpay)
      (writeRegStatus_readOnly hin (rangeHas_iff.2 hro) (hfree.imp_right rangeHas_eq_false)) (by decide)

/-! ### A field written and read back (R187, R189) -/

/-- The bits of a word that a field of `n` bits from bit `lo` covers. -/
def fieldBits (lo n : Nat) : Word := place 32 lo (BitVec.allOnes n)

/-- R189: a field cut out of a written word shows the word's bits in its own place. -/
theorem place_extract (w : Word) (lo n : Nat) : place 32 lo (w.extractLsb' lo n) = w &&& fieldBits lo n := by
  apply BitVec.eq_of_getLsbD_eq
  intro i hi
  simp only [place, fieldBits, BitVec.getLsbD_and, BitVec.getLsbD_shiftLeft, BitVec.getLsbD_setWidth,
    BitVec.getLsbD_extractLsb', BitVec.getLsbD_allOnes]
  by_cases hlo : i < lo
  · simp [hlo]
  · have hbit : lo + (i - lo) = i := by omega
    simp only [hlo, hbit, hi, decide_true, decide_false, Bool.not_false, Bool.true_and]
    rw [← Bool.and_assoc, Bool.and_comm]

/-- R197: two fields of a word. -/
theorem place_two (w : Word) (lo n lo' n' : Nat) :
    place 32 lo (w.extractLsb' lo n) ||| place 32 lo' (w.extractLsb' lo' n')
      = w &&& (fieldBits lo n ||| fieldBits lo' n') := by
  rw [place_extract, place_extract, ← BitVec.and_or_distrib_left]

theorem place_flag (w : Word) (lo : Nat) : place 32 lo (flag (w.getLsbD lo)) = w &&& fieldBits lo 1 := by
  have hbit : flag (w.getLsbD lo) = w.extractLsb' lo 1 := by
    apply BitVec.eq_of_getLsbD_eq
    intro i hi
    obtain rfl : i = 0 := by omega
    simp [flag]
  rw [hbit, place_extract]

/-- R189: a word all of whose bits the map names. -/
theorem eq_and_all (w : Word) : w = w &&& 0xFFFFFFFF := (BitVec.and_allOnes).symm

/-- R197: a window's low word replaces the address below bit 32, the other word the byte above it. -/
theorem addrLow_setAddrLow (a : Addr) (w : Word) : addrLow (setAddrLow a w) = w := by
  exact BitVec.extractLsb'_append_eq_right

theorem addrHigh_setAddrHigh (a : Addr) (w : Word) : addrHigh (setAddrHigh a w) = w &&& fieldBits 0 8 := by
  rw [← place_extract, place_low]
  exact congrArg (BitVec.setWidth 32) BitVec.extractLsb'_append_eq_left

theorem side_code (b : Bool) : (if b then Side.response else Side.request).code = flag b := by cases b <;> rfl

theorem policy_bit (b : Bool) : (if b then Policy.abandon else Policy.report).code = flag b := by cases b <;> rfl

/-- R27, R197: a programmable word of a channel record, written and read back. -/
theorem Channel.word_write (c : Channel) (n : Fin 8) (k : Fin 12) (w : Word) (hk : readOnly (.channel n k) = false) :
    (c.write k.val w).word k.val = w &&& definedBits (.channel n k) := by
  match k, hk with
  | 1, _ => exact (addrLow_setAddrLow _ w).trans (eq_and_all w)
  | 2, _ => exact addrHigh_setAddrHigh _ w
  | 3, _ => exact (addrLow_setAddrLow _ w).trans (eq_and_all w)
  | 4, _ => exact addrHigh_setAddrHigh _ w
  | 8, _ => exact eq_and_all w
  | 9, _ => exact eq_and_all w
  | 0, _ =>
    show place 32 0 (flag (w.getLsbD 0)) ||| place 32 1 (if w.getLsbD 1 then Side.response else .request).code
      ||| place 32 2 (w.extractLsb' 2 2) ||| place 32 4 (flag (w.getLsbD 4)) ||| place 32 5 (w.extractLsb' 5 2)
      ||| place 32 7 (w.extractLsb' 7 2) = _
    simp only [side_code, place_flag, place_extract, ← BitVec.and_or_distrib_left]
    rfl
  | 5, _ => exact place_two w 0 5 8 5
  | 6, _ => exact place_two w 0 8 8 8
  | 7, _ => exact place_two w 0 5 8 5
  | 10, _ =>
    show place 32 0 (flag (w.getLsbD 0)) ||| place 32 1 (w.extractLsb' 1 3) ||| place 32 4 (flag (w.getLsbD 4)) = _
    simp only [place_flag, place_extract, ← BitVec.and_or_distrib_left]
    rfl
  | 11, hk => exact Bool.noConfusion hk

/-- R46, R197: a word of a stage record, written and read back. -/
theorem Stage.word_write (st : Stage) (n : Fin 4) (k : Fin 8) (w : Word) :
    (st.write k.val w).word k.val = w &&& definedBits (.stage n k) := by
  match k with
  | 0 => exact place_extract w 0 10
  | 1 => exact place_extract w 0 12
  | 2 => exact place_two w 0 3 8 7
  | 3 => exact place_extract w 0 10
  | 4 => exact place_extract w 0 12
  | 5 => exact place_two w 0 3 8 7
  | 6 => exact place_extract w 0 16
  | 7 => exact place_two w 0 3 8 7

theorem readWord_writeWord_channel (n : Fin 8) (k : Fin 12) (w : Word) (s : State) :
    readWord (writeWord s (.channel n k) w) (.channel n k) = ((s.mu.channels[n]).write k.val w).word k.val := by
  simp [readWord, writeWord]

theorem readWord_writeWord_stage (n : Fin 4) (k : Fin 8) (w : Word) (s : State) :
    readWord (writeWord s (.stage n k) w) (.stage n k) = ((s.tsq.stages[n]).write k.val w).word k.val := by
  simp [readWord, writeWord]

/-- R187, R189: a read-write word reads back as written in the bits that the map names. -/
theorem readWord_writeWord (x : WinWord) (w : Word) (s : State) (hx : readOnly x = false) :
    readWord (writeWord s x w) x = w &&& definedBits x := by
  cases x with
  | channel n k => exact (readWord_writeWord_channel n k w s).trans (Channel.word_write _ n k w hx)
  | stage n k => exact (readWord_writeWord_stage n k w s).trans (Stage.word_write _ n k w)
  | storeMode =>
    show place 32 0 (writeMode (w.extractLsb' 0 3) s).tst.mode = _
    rw [writeMode_tst]
    exact place_extract w 0 3
  | timeout =>
    show place 32 0 (w.extractLsb' 0 16) ||| place 32 16 (if w.getLsbD 16 then Policy.abandon else .report).code = _
    rw [policy_bit, place_flag, place_extract, ← BitVec.and_or_distrib_left]
    rfl
  | captureSelection =>
    show place 32 0 (w.extractLsb' 0 8) ||| place 32 8 (flag (w.getLsbD 8)) = _
    rw [place_flag, place_extract, ← BitVec.and_or_distrib_left]
    rfl
  | anomalyMasks => exact place_two w 0 6 8 6
  | dataOption => exact place_flag w 0
  | holdLimit => exact place_extract w 0 16
  | divisor => exact place_extract w 0 16
  | threshold => exact place_extract w 0 13
  | alertEnable => exact place_extract w 0 6
  | _ => exact absurd hx (by decide)

/-- Settles O44: `readWord_writeWord` for every word, and the map's bits as `definedBits` lists them. -/
theorem wordsReadBackAsWritten : Obligations.WordsReadBackAsWritten := by
  refine ⟨readWord_writeWord, by decide, fun n => ?channel, fun n => ?stage⟩
  case channel =>
    simp only [List.forall_mem_cons]
    exact ⟨rfl, rfl, rfl, rfl, rfl, rfl, rfl, rfl, rfl, rfl, rfl, fun _ h => absurd h List.not_mem_nil⟩
  case stage =>
    simp only [List.forall_mem_cons]
    exact ⟨rfl, rfl, rfl, rfl, rfl, rfl, rfl, rfl, fun _ h => absurd h List.not_mem_nil⟩

end Sys2Proof.Machine

/-! PROOFS. CLEAR_WATCH in every block (R24, R70, R78, R80, R85, R97, R113, R136, R137, R145, R152, R195). -/
namespace Sys2Proof.Machine

/-! ### The answers FORWARD (R70, R165, R174) -/

theorem forwardRequest_same {s : State} (h : ∀ x, s.rqp.inProcess = some x → x.phase ≠ .verdictWait) :
    forwardRequest s = s := by
  unfold forwardRequest
  split
  · rename_i x hx
    exact if_neg (h x hx)
  · rfl

theorem forwardResponse_waiting {x : RspTxn} {s : State} (h : s.rsp.inProcess = some x) (hp : x.phase = .verdictWait) :
    forwardResponse s = answerResponse false s := by simp only [forwardResponse, h, hp, if_true]

theorem forwardResponse_same {s : State} (h : ∀ x, s.rsp.inProcess = some x → x.phase ≠ .verdictWait) :
    forwardResponse s = s := by
  unfold forwardResponse
  split
  · rename_i x hx
    exact if_neg (h x hx)
  · rfl

/-- R99, R174: with no slot traced the answer writes no record, so it reaches RSP alone. -/
theorem forwardResponse_reaches_rsp {s : State} (h : ∀ n, (entry s n).traced = false) :
    ∃ r, forwardResponse s = s.setRsp r := by
  by_cases hw : ∃ x, s.rsp.inProcess = some x ∧ x.phase = .verdictWait
  · obtain ⟨x, hx, hp⟩ := hw
    exact ⟨_, (forwardResponse_waiting hx hp).trans (answerResponse_untraced hx (h x.slot))⟩
  · exact ⟨s.rsp, forwardResponse_same fun x hx hp => hw ⟨x, hx, hp⟩⟩

/-! ### CLEAR_WATCH block by block (R195) -/

/-- R195: CLEAR_WATCH up to the cancelling of the capture in hand: the hold has ended. -/
def watchReset (s : State) : State :=
  let s1 := clearMatches (mapEntries Entry.untraced s)
  releaseFlag (((s1.setTsq (clearTsq s1.tsq)).setTcu (clearTcu s1.tcu)).setTst (clearTst s1.tst))

theorem watchCleared_eq (s : State) : watchCleared s = cancelCapture (watchReset s) := rfl

theorem watchReset_rqp (s : State) : (watchReset s).rqp = { s.rqp with held := false } := by simp [watchReset]

/-- R23: CLEAR_WATCH frees no slot and takes none. -/
theorem lowestFree_watchReset {s : State} {n : Fin 64} (h : LowestFree s n) : LowestFree (watchReset s) n := by
  have hstate : ∀ m, (entry (watchReset s) m).state = (entry s m).state := fun m => by
    simp [watchReset, Entry.untraced]
  simpa only [LowestFree, hstate] using h

/-- R97: a request that does not wait for room keeps its place when its capture is cancelled. -/
theorem watchCleared_rqp {s : State} (h : NoneWaitsForRoom s) : (watchCleared s).rqp = { s.rqp with held := false } := by
  rw [watchCleared_eq, cancelCapture_same (by simpa [NoneWaitsForRoom, watchReset_rqp] using h), ← watchReset_rqp]
  simp

/-- R97, R169: a request in ROOM_WAIT begins its offer, the hold having ended. -/
theorem watchCleared_begins {s : State} {x : RqpTxn} {n : Fin 64} (hx : s.rqp.inProcess = some x)
    (hp : x.phase = .roomWait) (hn : LowestFree s n) :
    (watchCleared s).rqp.inProcess = some { x with phase := .offered n } := by
  rw [watchCleared_eq, cancelCapture_begins (t := x) (by rw [watchReset_rqp]; exact hx) hp (by rw [watchReset_rqp])
    (lowestFree_watchReset hn)]
  rfl

/-- R195: the state in which CLEAR_WATCH answers the waiting response: the request has been answered, no slot is traced. -/
def watchForwarded (s : State) : State := forwardRequest (watchCleared s)

theorem entry_watchForwarded (s : State) (n : Fin 64) : entry (watchForwarded s) n = (entry s n).untraced := by
  simp [watchForwarded, watchCleared]

/-- R195: behind the answers CLEAR_WATCH clears the anomaly summary and every pending cause. -/
theorem clearWatch_eq (s : State) : clearWatch s =
    (clearSummary (forwardResponse (watchForwarded s))).setAlc
      { (clearSummary (forwardResponse (watchForwarded s))).alc with pending := 0 } := rfl

theorem clearWatch_rqp (s : State) : (clearWatch s).rqp = (watchForwarded s).rqp := by simp [clearWatch_eq]

theorem clearWatch_rsp (s : State) : (clearWatch s).rsp = (forwardResponse (watchForwarded s)).rsp := by
  simp [clearWatch_eq]

/-- R24, R109, R136, R145, R152: the response's answer leaves nothing in the table, the store, TCU and the causes. -/
theorem clearWatch_blocks (s : State) : (clearWatch s).ott = (mapEntries Entry.untraced s).ott
    ∧ (clearWatch s).tcu = { clearTcu s.tcu with capture := none } ∧ (clearWatch s).tst = clearTst s.tst
    ∧ (clearWatch s).ans = { s.ans with flags := 0, counts := Vector.replicate 6 0, first := none }
    ∧ (clearWatch s).alc = { s.alc with pending := 0 } := by
  obtain ⟨r, hr⟩ := forwardResponse_reaches_rsp (s := watchForwarded s) fun n => by rw [entry_watchForwarded]; rfl
  have htcu : (watchCleared s).tcu = { clearTcu s.tcu with capture := none } := by
    rw [watchCleared_eq, (cancelCapture_spec _).1]
    simp [watchReset]
  rw [clearWatch_eq, hr]
  refine ⟨?_, ?_, ?_, ?_, ?_⟩
  · simp [watchForwarded, watchCleared]
  · simp [watchForwarded, htcu]
  · simp [watchForwarded, watchCleared]
  · simp [watchForwarded, watchCleared, clearSummary]
  · simp [watchForwarded, watchCleared]

theorem clearWatch_channel (s : State) (n : Fin 8) :
    (clearWatch s).mu.channels[n] = { s.mu.channels[n] with matchFlag := false, hitCount := 0 } := by
  have hmu : (clearWatch s).mu = (clearMatches (mapEntries Entry.untraced s)).mu := by simp [clearWatch]
  rw [hmu, clearMatches_channel, (mapEntries_frame _ s).1]
  rfl

theorem clearWatch_tsq (s : State) : (clearWatch s).tsq = clearTsq s.tsq := by simp [clearWatch]

/-- R85: the hold ends; its age and limit stay. -/
theorem clearWatch_hold (s : State) : (clearWatch s).rqp.held = false
    ∧ (clearWatch s).rqp.holdAge = s.rqp.holdAge ∧ (clearWatch s).rqp.holdLimit = s.rqp.holdLimit := by
  obtain ⟨-, hheld, hage, hlimit, -⟩ := cancelCapture_spec (watchReset s)
  rw [watchReset_rqp, ← watchCleared_eq] at hheld hage hlimit
  rw [clearWatch_rqp, watchForwarded, forwardRequest_eq]
  exact ⟨hheld, hage, hlimit⟩

/-- R70, R195: a request that waits for its verdict is answered FORWARD. -/
theorem clearWatch_request_waiting {s : State} {x : RqpTxn} (hx : s.rqp.inProcess = some x)
    (hp : x.phase = .verdictWait) : (clearWatch s).rqp.inProcess = some { x with phase := .holdPoint } := by
  have hroom : NoneWaitsForRoom s := fun y hy => by
    obtain rfl : x = y := Option.some.inj (hx.symm.trans hy)
    rw [hp]
    decide
  rw [clearWatch_rqp, watchForwarded, forwardRequest_waiting (t := x) (by rw [watchCleared_rqp hroom]; exact hx) hp]
  rfl

/-- R195: without a request that waits for room or for its verdict, RQP keeps what it holds. -/
theorem clearWatch_request_stays {s : State} (hroom : NoneWaitsForRoom s)
    (hv : ∀ x, s.rqp.inProcess = some x → x.phase ≠ .verdictWait) :
    (clearWatch s).rqp.inProcess = s.rqp.inProcess := by
  have hsame : (watchCleared s).rqp.inProcess = s.rqp.inProcess := by rw [watchCleared_rqp hroom]
  rw [clearWatch_rqp, watchForwarded, forwardRequest_same (by rwa [hsame]), hsame]

/-- R97, R195: a request in ROOM_WAIT begins its offer. -/
theorem clearWatch_request_begins {s : State} {x : RqpTxn} {n : Fin 64} (hx : s.rqp.inProcess = some x)
    (hp : x.phase = .roomWait) (hn : LowestFree s n) :
    (clearWatch s).rqp.inProcess = some { x with phase := .offered n } := by
  have hbegun := watchCleared_begins hx hp hn
  rw [clearWatch_rqp, watchForwarded, forwardRequest_same, hbegun]
  intro y hy
  obtain rfl := Option.some.inj (hbegun.symm.trans hy)
  exact RqpPhase.noConfusion

theorem watchForwarded_rsp (s : State) : (watchForwarded s).rsp = s.rsp := by simp [watchForwarded, watchCleared]

/-- R70, R174: a response that waits for its verdict is answered FORWARD and offered. -/
theorem clearWatch_response_waiting {s : State} {x : RspTxn} (hx : s.rsp.inProcess = some x)
    (hp : x.phase = .verdictWait) : (clearWatch s).rsp.inProcess = some { x with
      phase := .offered ⟨(entry s x.slot).tag, (entry s x.slot).initiator, upStatus x.status, x.data⟩ } := by
  have hx' : (watchForwarded s).rsp.inProcess = some x := by rw [watchForwarded_rsp, hx]
  rw [clearWatch_rsp, forwardResponse_waiting hx' hp, answerResponse_rsp hx', entry_watchForwarded]
  rfl

theorem clearWatch_response_stays {s : State} (h : ∀ x, s.rsp.inProcess = some x → x.phase ≠ .verdictWait) :
    (clearWatch s).rsp = s.rsp := by
  rw [clearWatch_rsp, forwardResponse_same (by rwa [watchForwarded_rsp]), watchForwarded_rsp]

theorem exec_clearWatch {s : State} (hb : BetweenFrames s) :
    exec .clearWatch s = .next ((clearWatch s).setMgp (Mgp.idle .ok)) :=
  whenPowered_actionFrame hb (by simp [clearWatch])

/-- Settles O49: CLEAR_WATCH block by block, the request by its phase. -/
theorem clearWatchClearsTheWatchState : Obligations.ClearWatchClearsTheWatchState := by
  intro s hb
  obtain ⟨hott, htcu, htst, hans, halc⟩ := clearWatch_blocks s
  obtain ⟨hheld, hage, hlimit⟩ := clearWatch_hold s
  have hline : alertLine (clearWatch s) = false := by simp [alertLine, halc]
  refine ⟨_, exec_clearWatch hb, ?_⟩
  simp only [entry_setMgp, State.setMgp_ott, State.setMgp_mu, State.setMgp_tsq, State.setMgp_rqp, State.setMgp_rsp,
    State.setMgp_rmg, State.setMgp_tcu, State.setMgp_tst, State.setMgp_ans, State.setMgp_alc, State.setMgp_tbs,
    State.setMgp_pulse, State.setMgp_mgp, show ∀ m t, alertLine (State.setMgp m t) = alertLine t from fun _ _ => rfl]
  refine ⟨clearWatch_entry s, by rw [hott, mapEntries_timeout], by rw [hott, mapEntries_policy],
    by rw [hott, mapEntries_purgeCount], clearWatch_channel s, clearWatch_tsq s, hheld, hage, hlimit,
    fun hnone => ?none, fun x hx hp => clearWatch_request_waiting hx hp,
    fun x hx hv hr => ?stays, fun x n hx hp hn => clearWatch_request_begins hx hp hn,
    fun x hx hp => clearWatch_response_waiting hx hp, clearWatch_response_stays, by simp [clearWatch], htcu, htst, hans,
    halc, hline, clearWatch_tbs s, by simp [clearWatch], trivial⟩
  case none =>
    have hempty : ∀ x, s.rqp.inProcess ≠ some x := fun x hx => Option.some_ne_none x (hx.symm.trans hnone)
    exact (clearWatch_request_stays (fun x hx => absurd hx (hempty x)) (fun x hx => absurd hx (hempty x))).trans hnone
  case stays =>
    have only : ∀ {p : RqpPhase}, x.phase ≠ p → ∀ y, s.rqp.inProcess = some y → y.phase ≠ p := fun h y hy => by
      obtain rfl := Option.some.inj (hx.symm.trans hy)
      exact h
    exact (clearWatch_request_stays (only hr) (only hv)).trans hx

end Sys2Proof.Machine

/-! PROOFS. A step with a command in front of the queue (log entry 1). -/
namespace Sys2Proof.Machine

/-- The command in front leaves the queue before it runs, so its meaning sees the commands behind it as the queue. -/
theorem step_of_pending_cons {c : Instr} {rest : List Instr} {s : State} (hq : s.pending = c :: rest) :
    step s = exec c (s.setPending rest) := by
  simp only [step, hq]

/-- Settles O1: `step` branches on the queue, and a queue with `c` in front takes the branch that runs `c`. -/
theorem stepRunsTheFrontCommand : Obligations.StepRunsTheFrontCommand :=
  fun _ _ _ hq => step_of_pending_cons hq

end Sys2Proof.Machine
